-- ==== Sys2Proof/Word.lean ====
section
/-!
DEFINITION. The word types of the core: what the spec treats as bits and nothing else. Every value is
unsigned (00_scope.md R11).
-/
namespace Sys2Proof

/-- A byte: a data register, a timer, a memory cell, the immediate kk (10_state.md R21, 20_memory.md R60). -/
abbrev Byte := BitVec 8

/-- A 16-bit value: an instruction word, PC, I, a stack entry (30_encoding.md R90, 10_state.md R25, R29, R31). -/
abbrev Word := BitVec 16

/-- The 4-bit field n, the sub-function nibble, or a nibble that decoding ignores (30_encoding.md R91, R95). -/
abbrev Nibble := BitVec 4

/-- A register number, the fields x and y: V0 to VF (30_encoding.md R91, 10_state.md R21). -/
abbrev Reg := BitVec 4

/-- The address field nnn (30_encoding.md R91). -/
abbrev Addr := BitVec 12

/-- VF, the flag register (10_state.md R22). -/
abbrev Reg.flag : Reg := 0xF#4

end Sys2Proof
end

