-- ==== Sys2Proof/Syntax.lean ====
section
/-!
DEFINITION. The instructions: one constructor per row of spec/opcode_table.json, in the table's order
(30_encoding.md R96). A field the decoder ignores (the table's "ign", R95) is kept as an operand, so that an
instruction holds every bit of its word; no meaning reads it (notes/assumptions/8.md).
-/
namespace Sys2Proof

/-- The 35 instructions of 30_encoding.md R96. -/
inductive Instr where
  /-- `0nnn` SYS nnn (R120); the low byte of nnn is neither E0 nor EE. -/
  | sys (nnn : Addr)
  /-- `00E0` CLS (R200); bits 11:8 ignored. -/
  | cls (ign : Nibble)
  /-- `00EE` RET (R122); bits 11:8 ignored. -/
  | ret (ign : Nibble)
  /-- `1nnn` JP nnn (R124). -/
  | jp (nnn : Addr)
  /-- `2nnn` CALL nnn (R126). -/
  | call (nnn : Addr)
  /-- `3xkk` SE Vx, kk (R128). -/
  | seVxKk (x : Reg) (kk : Byte)
  /-- `4xkk` SNE Vx, kk (R130). -/
  | sneVxKk (x : Reg) (kk : Byte)
  /-- `5xy0` SE Vx, Vy (R132); bits 3:0 ignored. -/
  | seVxVy (x y : Reg) (ign : Nibble)
  /-- `6xkk` LD Vx, kk (R150). -/
  | ldVxKk (x : Reg) (kk : Byte)
  /-- `7xkk` ADD Vx, kk (R152). -/
  | addVxKk (x : Reg) (kk : Byte)
  /-- `8xy0` LD Vx, Vy (R154). -/
  | ldVxVy (x y : Reg)
  /-- `8xy1` OR Vx, Vy (R156). -/
  | orVxVy (x y : Reg)
  /-- `8xy2` AND Vx, Vy (R158). -/
  | andVxVy (x y : Reg)
  /-- `8xy3` XOR Vx, Vy (R160). -/
  | xorVxVy (x y : Reg)
  /-- `8xy4` ADD Vx, Vy (R162). -/
  | addVxVy (x y : Reg)
  /-- `8xy5` SUB Vx, Vy (R164). -/
  | subVxVy (x y : Reg)
  /-- `8xy6` SHR Vx, Vy (R166). -/
  | shrVxVy (x y : Reg)
  /-- `8xy7` SUBN Vx, Vy (R168). -/
  | subnVxVy (x y : Reg)
  /-- `8xyE` SHL Vx, Vy (R170). -/
  | shlVxVy (x y : Reg)
  /-- `9xy0` SNE Vx, Vy (R134); bits 3:0 ignored. -/
  | sneVxVy (x y : Reg) (ign : Nibble)
  /-- `Annn` LD I, nnn (R180). -/
  | ldI (nnn : Addr)
  /-- `Bnnn` JP V0, nnn (R136). -/
  | jpV0 (nnn : Addr)
  /-- `Cxkk` RND Vx, kk (R172). -/
  | rnd (x : Reg) (kk : Byte)
  /-- `Dxyn` DRW Vx, Vy, n (R203). -/
  | drw (x y : Reg) (n : Nibble)
  /-- `Ex9E` SKP Vx (R226). -/
  | skp (x : Reg)
  /-- `ExA1` SKNP Vx (R228). -/
  | sknp (x : Reg)
  /-- `Fx07` LD Vx, DT (R220). -/
  | ldVxDt (x : Reg)
  /-- `Fx0A` LD Vx, K (R230). -/
  | ldVxK (x : Reg)
  /-- `Fx15` LD DT, Vx (R222). -/
  | ldDtVx (x : Reg)
  /-- `Fx18` LD ST, Vx (R224). -/
  | ldStVx (x : Reg)
  /-- `Fx1E` ADD I, Vx (R182). -/
  | addIVx (x : Reg)
  /-- `Fx29` LD F, Vx (R184). -/
  | ldFVx (x : Reg)
  /-- `Fx33` LD B, Vx (R186). -/
  | ldBVx (x : Reg)
  /-- `Fx55` LD [I], Vx (R188). -/
  | ldMemVx (x : Reg)
  /-- `Fx65` LD Vx, [I] (R190). -/
  | ldVxMem (x : Reg)
deriving DecidableEq, Repr

end Sys2Proof
end

