-- ==== Sys2Proof/WellFormed.lean ====
section
/-!
DEFINITION. Which terms of Instr are instructions of 30_encoding.md R96. Field widths are in the types; the one
check left is that SYS does not carry the low byte of CLS or RET, which the table matches first.
-/
namespace Sys2Proof

/-- R96, row 1: a SYS word has kk ∉ {E0, EE}. -/
def sysFieldOk (nnn : Addr) : Bool :=
  nnn.extractLsb' 0 8 != 0xE0#8 && nnn.extractLsb' 0 8 != 0xEE#8

/-- The instruction is one its own encoding stands for. -/
def Instr.wf : Instr → Bool
  | .sys nnn => sysFieldOk nnn
  | .cls _ | .ret _ | .jp _ | .call _ => true
  | .seVxKk _ _ | .sneVxKk _ _ | .seVxVy _ _ _ | .sneVxVy _ _ _ => true
  | .ldVxKk _ _ | .addVxKk _ _ | .ldVxVy _ _ | .orVxVy _ _ | .andVxVy _ _ | .xorVxVy _ _ => true
  | .addVxVy _ _ | .subVxVy _ _ | .shrVxVy _ _ | .subnVxVy _ _ | .shlVxVy _ _ => true
  | .ldI _ | .jpV0 _ | .rnd _ _ | .drw _ _ _ => true
  | .skp _ | .sknp _ | .ldVxDt _ | .ldVxK _ | .ldDtVx _ | .ldStVx _ => true
  | .addIVx _ | .ldFVx _ | .ldBVx _ | .ldMemVx _ | .ldVxMem _ => true

end Sys2Proof
end

