-- ==== Sys2Proof/Decode.lean ====
section
/-!
DEFINITION. From bytes to instructions and back: the fields of a word (30_encoding.md R91), the decode tree
(R94, R95, R96), the rejection of unmatched words by name (R97), and the encoder, written from the same rows.
-/
namespace Sys2Proof

/-- Why bytes give no instruction. -/
inductive DecodeError where
  /-- Fewer than the two bytes of a word were given. Raised by nobody in a run: the fetch reads two bytes. -/
  | truncated
  /-- The word matches no row of 30_encoding.md R96 (R97). Step gives it the meaning of R98. -/
  | unmatched (w : Word)
deriving DecidableEq, Repr

/-! ### Fields (30_encoding.md R91) -/

/-- `op`, w[15:12]. -/
def opOf (w : Word) : Nibble := w.extractLsb' 12 4
/-- `x`, w[11:8]. -/
def xOf (w : Word) : Reg := w.extractLsb' 8 4
/-- `y`, w[7:4]. -/
def yOf (w : Word) : Reg := w.extractLsb' 4 4
/-- `n`, w[3:0]. -/
def nOf (w : Word) : Nibble := w.extractLsb' 0 4
/-- `kk`, w[7:0]. -/
def kkOf (w : Word) : Byte := w.extractLsb' 0 8
/-- `nnn`, w[11:0]. -/
def nnnOf (w : Word) : Addr := w.extractLsb' 0 12

/-! ### Decode (30_encoding.md R94, R95, R96) -/

/-- Group 0: decided by kk alone, CLS and RET before SYS (R95). -/
def decodeGroup0 (w : Word) : Option Instr :=
  if kkOf w = 0xE0#8 then some (.cls (xOf w))
  else if kkOf w = 0xEE#8 then some (.ret (xOf w))
  else some (.sys (nnnOf w))

/-- Group 8: decided by n (R94). -/
def decodeGroup8 (w : Word) : Option Instr :=
  match nOf w with
  | 0x0#4 => some (.ldVxVy (xOf w) (yOf w))
  | 0x1#4 => some (.orVxVy (xOf w) (yOf w))
  | 0x2#4 => some (.andVxVy (xOf w) (yOf w))
  | 0x3#4 => some (.xorVxVy (xOf w) (yOf w))
  | 0x4#4 => some (.addVxVy (xOf w) (yOf w))
  | 0x5#4 => some (.subVxVy (xOf w) (yOf w))
  | 0x6#4 => some (.shrVxVy (xOf w) (yOf w))
  | 0x7#4 => some (.subnVxVy (xOf w) (yOf w))
  | 0xE#4 => some (.shlVxVy (xOf w) (yOf w))
  | _ => none

/-- Group E: decided by kk (R95). -/
def decodeGroupE (w : Word) : Option Instr :=
  match kkOf w with
  | 0x9E#8 => some (.skp (xOf w))
  | 0xA1#8 => some (.sknp (xOf w))
  | _ => none

/-- Group F: decided by kk (R95). -/
def decodeGroupF (w : Word) : Option Instr :=
  match kkOf w with
  | 0x07#8 => some (.ldVxDt (xOf w))
  | 0x0A#8 => some (.ldVxK (xOf w))
  | 0x15#8 => some (.ldDtVx (xOf w))
  | 0x18#8 => some (.ldStVx (xOf w))
  | 0x1E#8 => some (.addIVx (xOf w))
  | 0x29#8 => some (.ldFVx (xOf w))
  | 0x33#8 => some (.ldBVx (xOf w))
  | 0x55#8 => some (.ldMemVx (xOf w))
  | 0x65#8 => some (.ldVxMem (xOf w))
  | _ => none

/-- The decode tree: branch on op, and further where a group is shared (R94). Groups 5 and 9 ignore n (R95).
The last arm is op = F. `none`: the word is unmatched (R97). -/
def decodeWord (w : Word) : Option Instr :=
  match opOf w with
  | 0x0#4 => decodeGroup0 w
  | 0x1#4 => some (.jp (nnnOf w))
  | 0x2#4 => some (.call (nnnOf w))
  | 0x3#4 => some (.seVxKk (xOf w) (kkOf w))
  | 0x4#4 => some (.sneVxKk (xOf w) (kkOf w))
  | 0x5#4 => some (.seVxVy (xOf w) (yOf w) (nOf w))
  | 0x6#4 => some (.ldVxKk (xOf w) (kkOf w))
  | 0x7#4 => some (.addVxKk (xOf w) (kkOf w))
  | 0x8#4 => decodeGroup8 w
  | 0x9#4 => some (.sneVxVy (xOf w) (yOf w) (nOf w))
  | 0xA#4 => some (.ldI (nnnOf w))
  | 0xB#4 => some (.jpV0 (nnnOf w))
  | 0xC#4 => some (.rnd (xOf w) (kkOf w))
  | 0xD#4 => some (.drw (xOf w) (yOf w) (nOf w))
  | 0xE#4 => decodeGroupE w
  | _ => decodeGroupF w

/-- A word from its two bytes, the first the high byte (20_memory.md R65). -/
def wordOf (hi lo : Byte) : Word := hi ++ lo

/-- Decode the instruction at the head of the bytes and give the rest. Total; a word that is no instruction is
rejected by name. -/
def decode : List Byte → Except DecodeError (Instr × List Byte)
  | hi :: lo :: rest =>
    match decodeWord (wordOf hi lo) with
    | some i => .ok (i, rest)
    | none => .error (.unmatched (wordOf hi lo))
  | _ => .error .truncated

/-! ### Encode (30_encoding.md R92, R96) -/

/-- The format XY with its function nibble. -/
def encodeXY (op : Nibble) (x y : Reg) (sub : Nibble) : Word := op ++ x ++ y ++ sub
/-- The format XKK; the formats X and FIX are its words with a fixed kk. -/
def encodeXKK (op : Nibble) (x : Reg) (kk : Byte) : Word := op ++ x ++ kk
/-- The format NNN. -/
def encodeNNN (op : Nibble) (nnn : Addr) : Word := op ++ nnn

/-- The word of an instruction. -/
def encode : Instr → Word
  | .sys nnn => encodeNNN 0x0#4 nnn
  | .cls ign => encodeXKK 0x0#4 ign 0xE0#8
  | .ret ign => encodeXKK 0x0#4 ign 0xEE#8
  | .jp nnn => encodeNNN 0x1#4 nnn
  | .call nnn => encodeNNN 0x2#4 nnn
  | .seVxKk x kk => encodeXKK 0x3#4 x kk
  | .sneVxKk x kk => encodeXKK 0x4#4 x kk
  | .seVxVy x y ign => encodeXY 0x5#4 x y ign
  | .ldVxKk x kk => encodeXKK 0x6#4 x kk
  | .addVxKk x kk => encodeXKK 0x7#4 x kk
  | .ldVxVy x y => encodeXY 0x8#4 x y 0x0#4
  | .orVxVy x y => encodeXY 0x8#4 x y 0x1#4
  | .andVxVy x y => encodeXY 0x8#4 x y 0x2#4
  | .xorVxVy x y => encodeXY 0x8#4 x y 0x3#4
  | .addVxVy x y => encodeXY 0x8#4 x y 0x4#4
  | .subVxVy x y => encodeXY 0x8#4 x y 0x5#4
  | .shrVxVy x y => encodeXY 0x8#4 x y 0x6#4
  | .subnVxVy x y => encodeXY 0x8#4 x y 0x7#4
  | .shlVxVy x y => encodeXY 0x8#4 x y 0xE#4
  | .sneVxVy x y ign => encodeXY 0x9#4 x y ign
  | .ldI nnn => encodeNNN 0xA#4 nnn
  | .jpV0 nnn => encodeNNN 0xB#4 nnn
  | .rnd x kk => encodeXKK 0xC#4 x kk
  | .drw x y n => encodeXY 0xD#4 x y n
  | .skp x => encodeXKK 0xE#4 x 0x9E#8
  | .sknp x => encodeXKK 0xE#4 x 0xA1#8
  | .ldVxDt x => encodeXKK 0xF#4 x 0x07#8
  | .ldVxK x => encodeXKK 0xF#4 x 0x0A#8
  | .ldDtVx x => encodeXKK 0xF#4 x 0x15#8
  | .ldStVx x => encodeXKK 0xF#4 x 0x18#8
  | .addIVx x => encodeXKK 0xF#4 x 0x1E#8
  | .ldFVx x => encodeXKK 0xF#4 x 0x29#8
  | .ldBVx x => encodeXKK 0xF#4 x 0x33#8
  | .ldMemVx x => encodeXKK 0xF#4 x 0x55#8
  | .ldVxMem x => encodeXKK 0xF#4 x 0x65#8

/-- The bytes of an instruction as memory holds them, high byte first (20_memory.md R65). -/
def encodeBytes (i : Instr) : List Byte :=
  [(encode i).extractLsb' 8 8, (encode i).extractLsb' 0 8]

/-! ### The opcode table's rows (30_encoding.md R96, columns mask and match) -/

/-- The mask of the instruction's row. -/
def rowMask : Instr → Word
  | .sys _ | .jp _ | .call _ | .ldI _ | .jpV0 _ => 0xF000#16
  | .seVxKk _ _ | .sneVxKk _ _ | .ldVxKk _ _ | .addVxKk _ _ | .rnd _ _ => 0xF000#16
  | .seVxVy _ _ _ | .sneVxVy _ _ _ | .drw _ _ _ => 0xF000#16
  | .ldVxVy _ _ | .orVxVy _ _ | .andVxVy _ _ | .xorVxVy _ _ | .addVxVy _ _ => 0xF00F#16
  | .subVxVy _ _ | .shrVxVy _ _ | .subnVxVy _ _ | .shlVxVy _ _ => 0xF00F#16
  | .cls _ | .ret _ | .skp _ | .sknp _ | .ldVxDt _ | .ldVxK _ | .ldDtVx _ | .ldStVx _ => 0xF0FF#16
  | .addIVx _ | .ldFVx _ | .ldBVx _ | .ldMemVx _ | .ldVxMem _ => 0xF0FF#16

/-- The match of the instruction's row. -/
def rowMatch : Instr → Word
  | .sys _ => 0x0000#16 | .cls _ => 0x00E0#16 | .ret _ => 0x00EE#16
  | .jp _ => 0x1000#16 | .call _ => 0x2000#16
  | .seVxKk _ _ => 0x3000#16 | .sneVxKk _ _ => 0x4000#16 | .seVxVy _ _ _ => 0x5000#16
  | .ldVxKk _ _ => 0x6000#16 | .addVxKk _ _ => 0x7000#16
  | .ldVxVy _ _ => 0x8000#16 | .orVxVy _ _ => 0x8001#16 | .andVxVy _ _ => 0x8002#16
  | .xorVxVy _ _ => 0x8003#16 | .addVxVy _ _ => 0x8004#16 | .subVxVy _ _ => 0x8005#16
  | .shrVxVy _ _ => 0x8006#16 | .subnVxVy _ _ => 0x8007#16 | .shlVxVy _ _ => 0x800E#16
  | .sneVxVy _ _ _ => 0x9000#16 | .ldI _ => 0xA000#16 | .jpV0 _ => 0xB000#16
  | .rnd _ _ => 0xC000#16 | .drw _ _ _ => 0xD000#16
  | .skp _ => 0xE09E#16 | .sknp _ => 0xE0A1#16
  | .ldVxDt _ => 0xF007#16 | .ldVxK _ => 0xF00A#16 | .ldDtVx _ => 0xF015#16
  | .ldStVx _ => 0xF018#16 | .addIVx _ => 0xF01E#16 | .ldFVx _ => 0xF029#16
  | .ldBVx _ => 0xF033#16 | .ldMemVx _ => 0xF055#16 | .ldVxMem _ => 0xF065#16

/-! ### The host's words -/

/-- The 16-bit word of a table row of `nbits` bits whose bits are `w`: bits at or above `nbits` are 0, and so are
bits above the one word an instruction has (30_encoding.md R90). -/
def tableWord (nbits w : Nat) : Word := BitVec.ofNat 16 (w % 2 ^ nbits)

/-- The bytes of that word as memory holds them. -/
def tableBytes (nbits w : Nat) : List Byte :=
  [(tableWord nbits w).extractLsb' 8 8, (tableWord nbits w).extractLsb' 0 8]

/-- What the decoder reads from those bytes. -/
def decodeTableWord (nbits w : Nat) : Option Instr :=
  match decode (tableBytes nbits w) with
  | .ok (i, _) => some i
  | .error _ => none

end Sys2Proof
end

