-- ==== Sys2Proof/Config.lean ====
section
/-!
DEFINITION. What is fixed when a machine is constructed (00_scope.md R8, R9) and the one free value of the model.
-/
namespace Sys2Proof

/-- QUIRK_SHIFT_SRC: which register 8xy6 and 8xyE shift (41_alu.md R166). -/
inductive ShiftSource where
  | vy
  | vx
deriving DecidableEq, Repr

/-- KEY_OOR: how a key index of 16 or more is read (44_timers_keys.md R225). -/
inductive KeyOutOfRange where
  | notPressed
  | lowNibble
deriving DecidableEq, Repr

/-- The construction arguments of 00_scope.md R8. Bounds that make an argument meaningful are in the types: a tick has at
least one time unit, a modulus is positive, and the 80 font bytes lie in memory (notes/assumptions/17.md). -/
structure Config where
  /-- QUIRK_SHIFT_SRC (41_alu.md R166). -/
  shiftSource : ShiftSource
  /-- QUIRK_LS_INC (42_index_memory.md R188). -/
  loadStoreIncrement : Bool
  /-- FONT_BASE (20_memory.md R64): at most 0x1000 - 80. -/
  fontBase : Fin 4017
  /-- FONT_DATA (20_memory.md R64): 16 glyphs of 5 bytes. -/
  fontData : Vector Byte 80
  /-- DRAW_Y_MOD (43_display.md R202). -/
  drawYMod : PNat
  /-- STRICT_DECODE (30_encoding.md R98). -/
  strictDecode : Bool
  /-- ALIGN_CHECK (20_memory.md R68). -/
  alignCheck : Bool
  /-- KEY_OOR (44_timers_keys.md R225). -/
  keyOutOfRange : KeyOutOfRange
  /-- TICK_UNITS (10_state.md R37), OPEN in R8. -/
  tickUnits : PNat
deriving DecidableEq, Repr

/-- The bytes RND draws: `freeByte k` is the k-th draw. A FREE VALUE: no body, so nothing can be proved about it
(41_alu.md R172 "any 8-bit value; the model fixes none"; notes/assumptions/4.md). -/
opaque Config.freeByte : Nat → Byte

end Sys2Proof
end

