-- ==== Sys2Proof/Machine/Defaults.lean ====
section
/-!
DEFINITION. The default construction arguments: the "default" column of 00_scope.md R8, and for TICK_UNITS, which R8 leaves
OPEN, the spec's example value (92_eei_decisions.md D24; notes/assumptions/2.md).
-/
namespace Sys2Proof.Machine

/-- Glyphs 0 to 3 of the standard font (20_memory.md R64). -/
def font0123 : Vector Byte 20 :=
  #v[0xF0, 0x90, 0x90, 0x90, 0xF0,  0x20, 0x60, 0x20, 0x20, 0x70,
     0xF0, 0x10, 0xF0, 0x80, 0xF0,  0xF0, 0x10, 0xF0, 0x10, 0xF0]

/-- Glyphs 4 to 7. -/
def font4567 : Vector Byte 20 :=
  #v[0x90, 0x90, 0xF0, 0x10, 0x10,  0xF0, 0x80, 0xF0, 0x10, 0xF0,
     0xF0, 0x80, 0xF0, 0x90, 0xF0,  0xF0, 0x10, 0x20, 0x40, 0x40]

/-- Glyphs 8 to B. -/
def font89AB : Vector Byte 20 :=
  #v[0xF0, 0x90, 0xF0, 0x90, 0xF0,  0xF0, 0x90, 0xF0, 0x10, 0xF0,
     0xF0, 0x90, 0xF0, 0x90, 0x90,  0xE0, 0x90, 0xE0, 0x90, 0xE0]

/-- Glyphs C to F. -/
def fontCDEF : Vector Byte 20 :=
  #v[0xF0, 0x80, 0x80, 0x80, 0xF0,  0xE0, 0x90, 0x90, 0x90, 0xE0,
     0xF0, 0x80, 0xF0, 0x80, 0xF0,  0xF0, 0x80, 0xF0, 0x80, 0x80]

/-- FONT_DATA, the default table of 20_memory.md R64. -/
def standardFont : Vector Byte 80 := font0123 ++ font4567 ++ font89AB ++ fontCDEF

/-- The default value of every parameter of 00_scope.md R8; `tickUnits` is DESIGN CHOICE 50 (notes/assumptions/2.md). -/
def defaultConfig : Config where
  shiftSource := .vy
  loadStoreIncrement := true
  fontBase := 0
  fontData := standardFont
  drawYMod := 64
  strictDecode := false
  alignCheck := true
  keyOutOfRange := .notPressed
  tickUnits := 50

end Sys2Proof.Machine
end

