-- ==== Sys2Proof/Machine/State.lean ====
section
/-!
DEFINITION. The machine's state as plain data: the table of 10_state.md R20, and two fields of the model's own (`draws`,
`config`). With it the reasons a step can stop, and the state after reset (70_reset_and_hazards.md R270).
-/
namespace Sys2Proof.Machine

/-- Memory: the cells that differ from the reset contents, addresses strictly rising (the canonical form is
Memory.wf of Ops.lean; notes/assumptions/6.md). -/
abbrev Memory := List Host.Cell

/-- FB[x][y]: 64 columns of 32 rows of one-bit pixels (10_state.md R40). -/
abbrev FrameBuffer := Vector (Vector Bool 32) 64

/-- The fault causes of 60_exceptions.md R241; `FaultCause.code` gives their codes. -/
inductive FaultCause where
  | none
  | stackOverflow
  | stackUnderflow
  | memBounds
  | pcBounds
  | pcMisaligned
  | illegalInstruction
deriving DecidableEq, Repr

/-- The state of the core (10_state.md R20). -/
structure State where
  /-- V0 to VF (R21). -/
  v : Vector Byte 16
  /-- PC (R25). -/
  pc : Word
  /-- I (R29). -/
  i : Word
  /-- The call stack (R31). -/
  stack : Vector Word 16
  /-- SP, the depth, 0 to 16 (R32). -/
  sp : Fin 17
  /-- DT, the delay timer (R34). -/
  dt : Byte
  /-- ST, the sound timer (R35). -/
  st : Byte
  /-- TACC, the virtual-time accumulator (R37). -/
  tacc : Nat
  /-- MEM (20_memory.md R60). -/
  mem : Memory
  /-- FB (R40). -/
  fb : FrameBuffer
  /-- KEY, bit k for key k (R42). -/
  keys : Word
  /-- AWAIT_KEY (R49). -/
  awaitKey : Bool
  /-- display_updated (R44). -/
  displayUpdated : Bool
  /-- should_buzz (R45). -/
  shouldBuzz : Bool
  /-- FAULT_CAUSE (R46). -/
  faultCause : FaultCause
  /-- FAULT_PC (R46). -/
  faultPc : Word
  /-- FAULT_ADDR (R46). -/
  faultAddr : Word
  /-- LOADED (R48). -/
  loaded : Bool
  /-- The model's own: how many free bytes RND has drawn (notes/assumptions/4.md). -/
  draws : Nat
  /-- The model's own: the construction arguments, kept by every step (notes/assumptions/1.md). -/
  config : Config
deriving DecidableEq, Repr

/-- Why the machine stops outside its state. No constructor: every fault the spec has is recorded IN the state
(60_exceptions.md R243) and is a next state, after which the core is halted; nobody raises a Fault, so leaving the type
empty is safe (notes/assumptions/5.md). -/
inductive Fault where
deriving DecidableEq, Repr

/-- Why something has no meaning here. -/
inductive Refusal where
  /-- An instruction of the table without a meaning. Raised by nobody: every arm of exec has its meaning. Safe. -/
  | notModelled (mnemonic : String)
  /-- `set_key` with an index outside 0..15, which is outside the interface (20_memory.md R81). Raised by the host
  transaction setKey alone, by no instruction. Safe. -/
  | keyOutsideInterface (k : Nat)
deriving DecidableEq, Repr

/-- What a step, a meaning or a host transaction answers. -/
abbrev Result := Host.Outcome State Fault Refusal

/-- `construct()` with the given arguments: the reset state (70_reset_and_hazards.md R270). Memory lists nothing: what an
unlisted address reads as is the reset contents, zero but for the font (20_memory.md R63). -/
def State.construct (c : Config) : State where
  v := Vector.replicate 16 0
  pc := 0x200
  i := 0
  stack := Vector.replicate 16 0
  sp := 0
  dt := 0
  st := 0
  tacc := 0
  mem := []
  fb := Vector.replicate 64 (Vector.replicate 32 false)
  keys := 0
  awaitKey := false
  displayUpdated := false
  shouldBuzz := false
  faultCause := .none
  faultPc := 0
  faultAddr := 0
  loaded := false
  draws := 0
  config := c

/-- The machine right after reset, constructed with the default arguments of 00_scope.md R8. -/
def State.reset : State := State.construct defaultConfig

end Sys2Proof.Machine
end

