-- ==== Sys2Proof/Machine/Ops.lean ====
section
/-!
DEFINITION. The named operations over memory, registers, the stack and the framebuffer; raising a fault; the stages of
the step that no instruction owns (30_encoding.md R100).
-/
namespace Sys2Proof.Machine

/-! ### Constants (00_scope.md R8) -/

/-- MEM_SIZE: addresses 0x000 to 0xFFF. -/
def memSize : Nat := 0x1000
/-- PROG_BASE. -/
def progBase : Nat := 0x200
/-- ROM_MAX. -/
def romMax : Nat := 3584
/-- STACK_DEPTH. -/
def stackDepth : Nat := 16

/-! ### Memory (20_memory.md) -/

/-- What an address that memory does not list reads as: the reset contents (R63, R64). -/
def resetByte (c : Config) (a : Nat) : Byte :=
  if c.fontBase.val ≤ a then c.fontData.toList.getD (a - c.fontBase.val) 0 else 0

/-- The byte a memory holds at an address. Asked only for addresses that exist: `State.readByte` and
`State.accessFault` guard it. -/
def Memory.byteAt (c : Config) (a : Nat) : Memory → Byte
  | [] => resetByte c a
  | (a', b) :: m => if a' = a then b else Memory.byteAt c a m

/-- Put a cell where its address belongs. -/
def Memory.insert (cell : Host.Cell) : Memory → Memory
  | [] => [cell]
  | c :: m => if cell.1 < c.1 then cell :: c :: m else c :: Memory.insert cell m

/-- Drop what is listed for an address. -/
def Memory.erase (a : Nat) : Memory → Memory
  | [] => []
  | c :: m => if c.1 = a then Memory.erase a m else c :: Memory.erase a m

/-- Write one byte, keeping the canonical form: the reset value is not listed. An address outside memory holds nothing,
so nothing is written there; no meaning and no transaction asks for one (R67, R78). -/
def Memory.writeByte (c : Config) (a : Nat) (b : Byte) (m : Memory) : Memory :=
  if a < memSize then
    if b = resetByte c a then m.erase a else (m.erase a).insert (a, b)
  else m

/-- Write bytes at consecutive ascending addresses (R66). -/
def Memory.writeBytes (c : Config) (a : Nat) : List Byte → Memory → Memory
  | [], m => m
  | b :: bs, m => Memory.writeBytes c (a + 1) bs (m.writeByte c a b)

/-- The canonical form from address `lo` on: addresses strictly rising, inside memory, none listed at its reset
value. -/
def Memory.wfFrom (c : Config) (lo : Nat) : Memory → Bool
  | [] => true
  | (a, b) :: m => decide (lo ≤ a) && decide (a < memSize) && (b != resetByte c a) && Memory.wfFrom c (a + 1) m

/-- The canonical form of a memory. -/
def Memory.wf (c : Config) (m : Memory) : Bool := Memory.wfFrom c 0 m

/-- The byte at an address; `none` where the spec has no memory (R61). The view statements are made in. -/
def State.readByte (s : State) (a : Nat) : Option Byte :=
  if a < memSize then some (Memory.byteAt s.config a s.mem) else none

/-- MemRead, byte by byte: the `len` bytes from `base` upward (00_scope.md R12, 20_memory.md R66), after the check. -/
def State.memRead (s : State) (base len : Nat) : List Byte :=
  (List.range len).map fun k => Memory.byteAt s.config (base + k) s.mem

/-- MemWrite of consecutive bytes (00_scope.md R12), after the check. -/
def State.memWrite (s : State) (base : Nat) (bs : List Byte) : State :=
  { s with mem := Memory.writeBytes s.config base bs s.mem }

/-- `check(base, len)` of 42_index_memory.md R179: `none` when the access is in bounds, else the lowest out-of-bounds
address. An access of no bytes is in bounds (43_display.md R207). -/
def accessFault (base : Word) (len : Nat) : Option Word :=
  if 1 ≤ len ∧ base.toNat + len - 1 > 0xFFF then some (BitVec.ofNat 16 (max base.toNat 0x1000)) else none

/-! ### Registers -/

/-- V[x] (10_state.md R21). -/
def State.reg (s : State) (x : Reg) : Byte := s.v.get x.toFin

/-- V[x] <- b. -/
def State.setReg (s : State) (x : Reg) (b : Byte) : State := { s with v := s.v.set x.toNat b x.isLt }

/-- I <- w (10_state.md R29). -/
def State.setI (s : State) (w : Word) : State := { s with i := w }

/-- PC <- w (10_state.md R25). -/
def State.setPc (s : State) (w : Word) : State := { s with pc := w }

/-- The ordinary advance, PC <- PC + 2 (10_state.md R26). -/
def State.advance (s : State) : State := s.setPc (s.pc + 2)

/-- The conditional skip: PC + 4 when the condition holds, else PC + 2 (10_state.md R26). -/
def State.skipIf (s : State) (b : Bool) : State := s.setPc (if b then s.pc + 4 else s.pc + 2)

/-- DT <- b (10_state.md R34). -/
def State.setDt (s : State) (b : Byte) : State := { s with dt := b }

/-- ST <- b (10_state.md R35). -/
def State.setSt (s : State) (b : Byte) : State := { s with st := b }

/-- V[0], V[1], … <- the bytes, from register `k` on (42_index_memory.md R190). -/
def State.setRegsFrom (s : State) (k : Nat) : List Byte → State
  | [] => s
  | b :: bs => (s.setReg (BitVec.ofNat 4 k) b).setRegsFrom (k + 1) bs

/-- A fresh free byte has been drawn (41_alu.md R172). -/
def State.countDraw (s : State) : State := { s with draws := s.draws + 1 }

/-- `draw_random()`: the free value of this draw (00_scope.md R12). -/
def State.freeDraw (s : State) : Byte := Config.freeByte s.draws

/-! ### The call stack (10_state.md R31, R32) -/

/-- Push, where the stack is not full; `none` at depth 16. -/
def State.push (s : State) (w : Word) : Option State :=
  if h : s.sp.val < stackDepth then
    some { s with stack := s.stack.set s.sp.val w h, sp := ⟨s.sp.val + 1, Nat.succ_lt_succ h⟩ }
  else none

/-- Pop, where the stack is not empty: the state after and the entry; `none` at depth 0. The entry's storage keeps its
value (R33: nothing reads it). -/
def State.pop (s : State) : Option (State × Word) :=
  match s.sp with
  | ⟨0, _⟩ => none
  | ⟨k + 1, h⟩ =>
    some ({ s with sp := ⟨k, Nat.lt_of_succ_lt h⟩ }, s.stack.get ⟨k, Nat.lt_of_succ_lt_succ h⟩)

/-! ### The framebuffer (10_state.md R40) -/

/-- FB[px][py]. -/
def FrameBuffer.pixel (fb : FrameBuffer) (px : Fin 64) (py : Fin 32) : Bool := (fb.get px).get py

/-- FB[px][py] <- FB[px][py] ^ 1. -/
def FrameBuffer.toggle (fb : FrameBuffer) (px : Fin 64) (py : Fin 32) : FrameBuffer :=
  fb.set px.val ((fb.get px).set py.val (!fb.pixel px py) py.isLt) px.isLt

/-- Every pixel 0. -/
def FrameBuffer.clear : FrameBuffer := Vector.replicate 64 (Vector.replicate 32 false)

/-- FB <- fb, with display_updated set, as CLS and DRW leave it (43_display.md R200, R203). -/
def State.setFrame (s : State) (fb : FrameBuffer) : State := { s with fb := fb, displayUpdated := true }

/-! ### Faults (60_exceptions.md) -/

/-- FAULT_CAUSE's code (R241). -/
def FaultCause.code : FaultCause → BitVec 3
  | .none => 0
  | .stackOverflow => 1
  | .stackUnderflow => 2
  | .memBounds => 3
  | .pcBounds => 4
  | .pcMisaligned => 5
  | .illegalInstruction => 6

/-- `raise FAULT(cause, addr)`: what a fault writes (R243). The core has no return from a fault (R251): recovery is
`State.construct`. -/
def State.raise (s : State) (cause : FaultCause) (addr : Word) : State :=
  { s with faultCause := cause, faultPc := s.pc, faultAddr := addr, displayUpdated := false, shouldBuzz := false }

/-- halted (10_state.md R47). -/
def State.halted (s : State) : Bool := !s.loaded || s.faultCause != .none

/-- An access of `len` bytes at I: the fault MEM_BOUNDS, or what the instruction does (42_index_memory.md R179,
60_exceptions.md R242). -/
def State.accessAtI (s : State) (len : Nat) (body : State) : State :=
  match accessFault s.i len with
  | some addr => s.raise .memBounds addr
  | none => body

/-- The handling of an unmatched word and of SYS (30_encoding.md R98, 40_control_flow.md R120). -/
def State.unmatched (s : State) : State :=
  if s.config.strictDecode then s.raise .illegalInstruction s.pc else s.advance

/-! ### The stages of a step (30_encoding.md R100) -/

/-- Stage 0: the per-step outputs. -/
def State.clearOutputs (s : State) : State := { s with displayUpdated := false, shouldBuzz := false }

/-- Stage 1, the checks, bounds before alignment (R102; 60_exceptions.md R244, R245). -/
def State.fetchFault (s : State) : Option FaultCause :=
  if s.pc.toNat + 1 > 0xFFF then some .pcBounds
  else if s.config.alignCheck && s.pc.getLsbD 0 then some .pcMisaligned
  else none

/-- Stage 1, the bytes at PC and PC + 1 (20_memory.md R65). -/
def State.fetchBytes (s : State) : List Byte := s.memRead s.pc.toNat 2

/-- The whole ticks TACC holds (10_state.md R38). -/
def State.ticks (s : State) : Nat := s.tacc / s.config.tickUnits.val

/-- A timer after t ticks: max(timer - t, 0) (10_state.md R36, R38). -/
def timerAfter (timer : Byte) (t : Nat) : Byte := BitVec.ofNat 8 (timer.toNat - t)

/-- Stage 3: the tick (10_state.md R38). -/
def State.tick (s : State) : State :=
  { s with
    tacc := s.tacc % s.config.tickUnits.val
    dt := timerAfter s.dt s.ticks
    st := timerAfter s.st s.ticks }

/-- Stage 5: the end of a step that did not fault (30_encoding.md R106). -/
def State.endStep (s : State) (awaiting : Bool) : State :=
  { s with awaitKey := awaiting, shouldBuzz := s.st != 0 }

end Sys2Proof.Machine
end

