-- ==== Sys2Proof/Machine/Operands.lean ====
section
/-!
DEFINITION. The operand forms: immediates (30_encoding.md R93), the shift source, the font address, the decimal digits, the
key test and the sprite's origin, bytes and blit. Operands are read from the state before anything is written
(00_scope.md R13).
-/
namespace Sys2Proof.Machine

/-- zext_16(nnn) (30_encoding.md R93). -/
def addr16 (nnn : Addr) : Word := nnn.setWidth 16

/-- zext_16(V[x]). -/
def State.reg16 (s : State) (x : Reg) : Word := (s.reg x).setWidth 16

/-- The value SHR and SHL shift: V[y] or V[x] by QUIRK_SHIFT_SRC (41_alu.md R166). -/
def State.shiftSource (s : State) (x y : Reg) : Byte :=
  match s.config.shiftSource with
  | .vy => s.reg y
  | .vx => s.reg x

/-- The glyph address of a digit: FONT_BASE + 5 · (v & 0xF) (42_index_memory.md R184). -/
def State.glyphAddr (s : State) (v : Byte) : Word :=
  BitVec.ofNat 16 (s.config.fontBase.val + 5 * (v &&& 0xF).toNat)

/-- Hundreds, tens, units (42_index_memory.md R186). -/
def decimalDigits (v : Byte) : List Byte :=
  [BitVec.ofNat 8 (v.toNat / 100), BitVec.ofNat 8 (v.toNat / 10 % 10), BitVec.ofNat 8 (v.toNat % 10)]

/-- V[0], …, V[x] (42_index_memory.md R188). -/
def State.regsUpTo (s : State) (x : Reg) : List Byte :=
  (List.range (x.toNat + 1)).map fun k => s.reg (BitVec.ofNat 4 k)

/-- I after Fx55 and Fx65: I + x + 1 with QUIRK_LS_INC, else unchanged (42_index_memory.md R188, R190). -/
def State.bumpI (s : State) (x : Reg) : State :=
  if s.config.loadStoreIncrement then s.setI (s.i + x.setWidth 16 + 1) else s

/-! ### Keys -/

/-- KEY[k] (10_state.md R42). -/
def State.key (s : State) (k : Nat) : Bool := s.keys.getLsbD k

/-- pressed(v) (44_timers_keys.md R225). -/
def State.pressed (s : State) (v : Byte) : Bool :=
  if v.toNat < 16 then s.key v.toNat
  else match s.config.keyOutOfRange with
    | .lowNibble => s.key (v &&& 0xF).toNat
    | .notPressed => false

/-- The lowest-indexed pressed key, if any key is pressed (44_timers_keys.md R230). -/
def State.lowestKey (s : State) : Option Nat := (List.range 16).find? fun k => s.key k

/-! ### Sprites (43_display.md) -/

/-- The column of the draw origin, V[x] mod 64 (R202). -/
def State.originX (s : State) (x : Reg) : Nat := (s.reg x).toNat % 64

/-- The row of the draw origin, V[y] mod DRAW_Y_MOD (R202). -/
def State.originY (s : State) (y : Reg) : Nat := (s.reg y).toNat % s.config.drawYMod.val

/-- One set sprite bit at column `px`, row `py`: clipped outside the frame, else the pixel is toggled and a set pixel
counts as a collision (R203, R204). -/
def blitPixel (px py : Nat) (acc : FrameBuffer × Bool) : FrameBuffer × Bool :=
  if h : px < 64 ∧ py < 32 then
    (acc.1.toggle ⟨px, h.1⟩ ⟨py, h.2⟩, acc.2 || acc.1.pixel ⟨px, h.1⟩ ⟨py, h.2⟩)
  else acc

/-- The columns `col`, …, 7 of one sprite row; bit 7 is column 0 (R201, R203). `left` counts the columns still to
draw, so `col = 8 - left`. -/
def blitCols (x0 py : Nat) (b : Byte) : (left : Nat) → FrameBuffer × Bool → FrameBuffer × Bool
  | 0, acc => acc
  | left + 1, acc =>
    blitCols x0 py b left (if b.getLsbD left then blitPixel (x0 + (7 - left)) py acc else acc)

/-- The rows of a sprite from the top (R201, R203). -/
def blitRows (x0 : Nat) : (py : Nat) → List Byte → FrameBuffer × Bool → FrameBuffer × Bool
  | _, [], acc => acc
  | py, b :: bs, acc => blitRows x0 (py + 1) bs (blitCols x0 py b 8 acc)

/-- The blit of the sprite bytes at an origin: the new frame and the accumulator c, which starts at 0 (R203). -/
def blit (x0 y0 : Nat) (sprite : List Byte) (fb : FrameBuffer) : FrameBuffer × Bool :=
  blitRows x0 y0 sprite (fb, false)

end Sys2Proof.Machine
end

