-- ==== Sys2Proof/Machine/Flags.lean ====
section
/-!
DEFINITION. The 8-bit results and the VF flags: exact sums on natural numbers, narrowed at the end (41_alu.md R149), and the
write of a result with its flag (10_state.md R23).
-/
namespace Sys2Proof.Machine

/-- A flag as the byte VF receives, 1 or 0. -/
def flagByte (b : Bool) : Byte := if b then 1 else 0

/-- (a + b) mod 256 (41_alu.md R162). -/
def sumByte (a b : Byte) : Byte := BitVec.ofNat 8 (a.toNat + b.toNat)

/-- The carry: the exact sum is above 255 (41_alu.md R162). -/
def carryOut (a b : Byte) : Bool := decide (a.toNat + b.toNat > 255)

/-- (a - b) mod 256, computed as (a + 256 - b) mod 256 (41_alu.md R164). -/
def diffByte (a b : Byte) : Byte := BitVec.ofNat 8 (a.toNat + 256 - b.toNat)

/-- No borrow: minuend ≥ subtrahend (41_alu.md R164). -/
def noBorrow (a b : Byte) : Bool := decide (a.toNat ≥ b.toNat)

/-- s >> 1 (41_alu.md R166). -/
def shrByte (s : Byte) : Byte := BitVec.ofNat 8 (s.toNat / 2)

/-- The bit shifted out to the right, s[0] (41_alu.md R166). -/
def lowBit (s : Byte) : Bool := s.getLsbD 0

/-- (s << 1) mod 256 (41_alu.md R170). -/
def shlByte (s : Byte) : Byte := BitVec.ofNat 8 (s.toNat * 2)

/-- The bit shifted out to the left, s[7] (41_alu.md R170). -/
def highBit (s : Byte) : Bool := s.getLsbD 7

/-- V[x] <- result, then V[F] <- flag, so that the flag stands when x = F (10_state.md R23). -/
def State.setRegFlag (s : State) (x : Reg) (result : Byte) (flag : Bool) : State :=
  (s.setReg x result).setReg Reg.flag (flagByte flag)

end Sys2Proof.Machine
end

