-- ==== Sys2Proof/Machine/Alu.lean ====
section
/-!
DEFINITION. 41_alu.md: register loads, arithmetic, logic, shifts and random. Every instruction ends with PC + 2.
-/
namespace Sys2Proof.Machine

/-- LD Vx, kk (R150). -/
def execLdVxKk (x : Reg) (kk : Byte) (s : State) : Result := .next (s.setReg x kk).advance

/-- ADD Vx, kk (R152): no flag. -/
def execAddVxKk (x : Reg) (kk : Byte) (s : State) : Result :=
  .next (s.setReg x (sumByte (s.reg x) kk)).advance

/-- LD Vx, Vy (R154). -/
def execLdVxVy (x y : Reg) (s : State) : Result := .next (s.setReg x (s.reg y)).advance

/-- OR Vx, Vy (R156). -/
def execOrVxVy (x y : Reg) (s : State) : Result := .next (s.setReg x (s.reg x ||| s.reg y)).advance

/-- AND Vx, Vy (R158). -/
def execAndVxVy (x y : Reg) (s : State) : Result := .next (s.setReg x (s.reg x &&& s.reg y)).advance

/-- XOR Vx, Vy (R160). -/
def execXorVxVy (x y : Reg) (s : State) : Result := .next (s.setReg x (s.reg x ^^^ s.reg y)).advance

/-- ADD Vx, Vy (R162). -/
def execAddVxVy (x y : Reg) (s : State) : Result :=
  .next (s.setRegFlag x (sumByte (s.reg x) (s.reg y)) (carryOut (s.reg x) (s.reg y))).advance

/-- SUB Vx, Vy (R164). -/
def execSubVxVy (x y : Reg) (s : State) : Result :=
  .next (s.setRegFlag x (diffByte (s.reg x) (s.reg y)) (noBorrow (s.reg x) (s.reg y))).advance

/-- SHR Vx, Vy (R166). -/
def execShrVxVy (x y : Reg) (s : State) : Result :=
  .next (s.setRegFlag x (shrByte (s.shiftSource x y)) (lowBit (s.shiftSource x y))).advance

/-- SUBN Vx, Vy (R168). -/
def execSubnVxVy (x y : Reg) (s : State) : Result :=
  .next (s.setRegFlag x (diffByte (s.reg y) (s.reg x)) (noBorrow (s.reg y) (s.reg x))).advance

/-- SHL Vx, Vy (R170). -/
def execShlVxVy (x y : Reg) (s : State) : Result :=
  .next (s.setRegFlag x (shlByte (s.shiftSource x y)) (highBit (s.shiftSource x y))).advance

/-- RND Vx, kk (R172): a fresh free draw, masked by kk (notes/assumptions/4.md). -/
def execRnd (x : Reg) (kk : Byte) (s : State) : Result :=
  .next (s.countDraw.setReg x (s.freeDraw &&& kk)).advance

end Sys2Proof.Machine
end

