-- ==== Sys2Proof/Machine/Control.lean ====
section
/-!
DEFINITION. 40_control_flow.md: SYS, RET, JP, CALL, the conditional skips, JP V0.
-/
namespace Sys2Proof.Machine

/-- SYS nnn (R120): as an unmatched word. -/
def execSys (s : State) : Result := .next s.unmatched

/-- RET (R122). -/
def execRet (s : State) : Result :=
  match s.pop with
  | none => .next (s.raise .stackUnderflow 0)
  | some (t, target) => .next (t.setPc target)

/-- JP nnn (R124). -/
def execJp (nnn : Addr) (s : State) : Result := .next (s.setPc (addr16 nnn))

/-- CALL nnn (R126): pushes the address after the CALL. -/
def execCall (nnn : Addr) (s : State) : Result :=
  match s.push (s.pc + 2) with
  | none => .next (s.raise .stackOverflow (addr16 nnn))
  | some t => .next (t.setPc (addr16 nnn))

/-- SE Vx, kk (R128). -/
def execSeVxKk (x : Reg) (kk : Byte) (s : State) : Result := .next (s.skipIf (s.reg x == kk))

/-- SNE Vx, kk (R130). -/
def execSneVxKk (x : Reg) (kk : Byte) (s : State) : Result := .next (s.skipIf (s.reg x != kk))

/-- SE Vx, Vy (R132). -/
def execSeVxVy (x y : Reg) (s : State) : Result := .next (s.skipIf (s.reg x == s.reg y))

/-- SNE Vx, Vy (R134). -/
def execSneVxVy (x y : Reg) (s : State) : Result := .next (s.skipIf (s.reg x != s.reg y))

/-- JP V0, nnn (R136): the sum is not wrapped to 12 bits. -/
def execJpV0 (nnn : Addr) (s : State) : Result := .next (s.setPc (addr16 nnn + s.reg16 0))

end Sys2Proof.Machine
end

