-- ==== Sys2Proof/Machine/Display.lean ====
section
/-!
DEFINITION. 43_display.md: the framebuffer clear and the XOR sprite blit.
-/
namespace Sys2Proof.Machine

/-- CLS (R200). -/
def execCls (s : State) : Result := .next (s.setFrame FrameBuffer.clear).advance

/-- What DRW draws: the blit of the n bytes at I, from the state before anything is written (R203, R206). -/
def State.drawn (s : State) (x y : Reg) (n : Nibble) : FrameBuffer × Bool :=
  blit (s.originX x) (s.originY y) (s.memRead s.i.toNat n.toNat) s.fb

/-- DRW Vx, Vy, n (R203): with n = 0 nothing is read or drawn (R207). -/
def execDrw (x y : Reg) (n : Nibble) (s : State) : Result :=
  .next (s.accessAtI n.toNat
    (((s.setFrame (s.drawn x y n).1).setReg Reg.flag (flagByte (s.drawn x y n).2)).advance))

end Sys2Proof.Machine
end

