-- ==== Sys2Proof/Machine/Index.lean ====
section
/-!
DEFINITION. 42_index_memory.md: the address register and the memory-indexed operations. Every instruction ends with PC + 2;
an access out of bounds raises MEM_BOUNDS before anything is written (R179).
-/
namespace Sys2Proof.Machine

/-- LD I, nnn (R180). -/
def execLdI (nnn : Addr) (s : State) : Result := .next (s.setI (addr16 nnn)).advance

/-- ADD I, Vx (R182): mod 65536, no flag. -/
def execAddIVx (x : Reg) (s : State) : Result := .next (s.setI (s.i + s.reg16 x)).advance

/-- LD F, Vx (R184). -/
def execLdFVx (x : Reg) (s : State) : Result := .next (s.setI (s.glyphAddr (s.reg x))).advance

/-- LD B, Vx (R186). -/
def execLdBVx (x : Reg) (s : State) : Result :=
  .next (s.accessAtI 3 (s.memWrite s.i.toNat (decimalDigits (s.reg x))).advance)

/-- LD [I], Vx (R188). -/
def execLdMemVx (x : Reg) (s : State) : Result :=
  .next (s.accessAtI (x.toNat + 1) ((s.memWrite s.i.toNat (s.regsUpTo x)).bumpI x).advance)

/-- LD Vx, [I] (R190). -/
def execLdVxMem (x : Reg) (s : State) : Result :=
  .next (s.accessAtI (x.toNat + 1) ((s.setRegsFrom 0 (s.memRead s.i.toNat (x.toNat + 1))).bumpI x).advance)

end Sys2Proof.Machine
end

