-- ==== Sys2Proof/Machine/TimersKeys.lean ====
section
/-!
DEFINITION. 44_timers_keys.md: timer access, key tests, wait-for-key. DT and ST are read after this step's tick
(30_encoding.md R104).
-/
namespace Sys2Proof.Machine

/-- LD Vx, DT (R220). -/
def execLdVxDt (x : Reg) (s : State) : Result := .next (s.setReg x s.dt).advance

/-- LD DT, Vx (R222). -/
def execLdDtVx (x : Reg) (s : State) : Result := .next (s.setDt (s.reg x)).advance

/-- LD ST, Vx (R224). -/
def execLdStVx (x : Reg) (s : State) : Result := .next (s.setSt (s.reg x)).advance

/-- SKP Vx (R226). -/
def execSkp (x : Reg) (s : State) : Result := .next (s.skipIf (s.pressed (s.reg x)))

/-- SKNP Vx (R228). -/
def execSknp (x : Reg) (s : State) : Result := .next (s.skipIf (!s.pressed (s.reg x)))

/-- LD Vx, K (R230): no progress while no key is pressed; AWAIT_KEY is written at stage 5. -/
def execLdVxK (x : Reg) (s : State) : Result :=
  match s.lowestKey with
  | none => .next s
  | some k => .next (s.setReg x (BitVec.ofNat 8 k)).advance

end Sys2Proof.Machine
end

