-- ==== Sys2Proof/Machine/Pipeline.lean ====
section
/-!
DEFINITION. One step as the stages of 30_encoding.md R100 around exec, and the placing of a word at the next fetch.
-/
namespace Sys2Proof.Machine

/-- Is the instruction Fx0A, the wait for a key? Stage 5 asks it (30_encoding.md R106). -/
def waitsForKey : Instr → Bool
  | .ldVxK _ => true
  | _ => false

/-- Stage 4 for what the decoder answered: the instruction's own rule, or the rule of an unmatched word (R103, R98). -/
def dispatch (s : State) : Except DecodeError (Instr × List Byte) → Result
  | .ok (i, _) => exec i s
  | .error _ => .next s.unmatched

/-- Does stage 5 set AWAIT_KEY: the instruction was Fx0A and no key was pressed (R100). -/
def awaiting (s : State) : Except DecodeError (Instr × List Byte) → Bool
  | .ok (i, _) => waitsForKey i && s.keys == 0
  | .error _ => false

/-- Stages 4 and 5 leave their state, or, where stage 4 raised a fault, nothing but the fault report on the state before
the tick (R100, 60_exceptions.md R243). `s` is the state after stage 0; it records no fault, so a cause that stage 4
leaves is one it raised (notes/assumptions/11.md). -/
def finish (s : State) (awaits : Bool) : Result → Result
  | .next t => if t.faultCause = .none then .next (t.endStep awaits) else .next (s.raise t.faultCause t.faultAddr)
  | .fault r => .fault r
  | .refused r => .refused r

/-- Stages 2 to 5 on fetched bytes: decode, tick, dispatch, end. -/
def runFetched (s : State) (bytes : List Byte) : Result :=
  finish s (awaiting s (decode bytes)) (dispatch s.tick (decode bytes))

/-- Stages 1 to 5 of a core that is not halted. -/
def runActive (s : State) : Result :=
  match s.fetchFault with
  | some cause => .next (s.raise cause s.pc)
  | none => runFetched s s.fetchBytes

/-- `step()` (R99, R100): stage 0, and then nothing more while halted (R101). -/
def runStep (s : State) : Result :=
  if s.halted then .next s.clearOutputs else runActive s.clearOutputs

/-- Place bytes where the next step fetches, in a core that runs: loaded and with no fault recorded
(notes/assumptions/7.md). -/
def State.placeAtPc (s : State) (bs : List Byte) : State :=
  { s.memWrite s.pc.toNat bs with loaded := true, faultCause := .none }

end Sys2Proof.Machine
end

