-- ==== Sys2Proof/Machine/Step.lean ====
section
/-!
DEFINITION. The step, and the host's placing of one instruction at the next fetch.
-/
namespace Sys2Proof.Machine

/-- `step()` (30_encoding.md R99, R100). -/
def step (s : State) : Host.Outcome State Fault Refusal := runStep s

/-- `s` with the instruction of a table row stored where the next step fetches (notes/assumptions/7.md). -/
def State.withFetchWord (s : State) (nbits w : Nat) : State := s.placeAtPc (tableBytes nbits w)

end Sys2Proof.Machine
end

