-- ==== Sys2Proof/Machine/Transactions.lean ====
section
/-!
DEFINITION. The host's transactions (20_memory.md R77), each atomic, totally ordered, between steps.
-/
namespace Sys2Proof.Machine

/-- `load(bytes)` (R78, R274): the state after and whether it succeeded. -/
def State.load (s : State) (bytes : List Byte) : State × Bool :=
  if bytes.length ≤ romMax then ({ s.memWrite progBase bytes with loaded := true }, true)
  else ({ s with loaded := false }, false)

/-- A load whose failure is reported from outside the core, "source unreadable" (R78). -/
def State.loadUnreadable (s : State) : State × Bool := ({ s with loaded := false }, false)

/-- `advance_time(dt)` (R79). -/
def State.advanceTime (s : State) (dt : Nat) : State := { s with tacc := s.tacc + dt }

/-- `set_key(k, pressed)` (R81): an index outside 0..15 is refused and changes nothing. -/
def State.setKey (s : State) (k : Nat) (pressed : Bool) : Result :=
  if k < 16 then
    .next { s with keys := if pressed then s.keys ||| BitVec.twoPow 16 k else s.keys &&& ~~~(BitVec.twoPow 16 k) }
  else .refused (.keyOutsideInterface k)

/-- `fault()` (R82): the triple (FAULT_CAUSE, FAULT_PC, FAULT_ADDR). -/
def State.faultReport (s : State) : BitVec 3 × Word × Word := (s.faultCause.code, s.faultPc, s.faultAddr)

/-- `pixels()` (R80): the read-only view FB[x][y]. -/
def State.pixels (s : State) : FrameBuffer := s.fb

/-- The transactions that can change the state of a constructed core; the queries halted (State.halted),
display_updated, should_buzz, fault and pixels change none (R77, R82). -/
inductive Transaction where
  | load (bytes : List Byte)
  | loadUnreadable
  | advanceTime (dt : Nat)
  | step
  | setKey (k : Nat) (pressed : Bool)
deriving DecidableEq, Repr

/-- What a transaction does to the core. -/
def transact (t : Transaction) (s : State) : Result :=
  match t with
  | .load bytes => .next (s.load bytes).1
  | .loadUnreadable => .next s.loadUnreadable.1
  | .advanceTime dt => .next (s.advanceTime dt)
  | .step => Sys2Proof.Machine.step s
  | .setKey k pressed => s.setKey k pressed

end Sys2Proof.Machine
end

