-- ==== Sys2Proof/Safety.lean ====
section
/-!
DEFINITION. The terms the statements are made in: what an instruction leaves unchanged, when PC may be fetched from, what a
recorded fault says, and the machine's invariant.
-/
namespace Sys2Proof.Safety

open Sys2Proof.Machine

/-! ### Frames -/

/-- Every register but those listed holds what it held. -/
def KeepsRegs (changed : List Reg) (s t : State) : Prop := ∀ r : Reg, r ∉ changed → t.reg r = s.reg r

/-- Every byte of memory reads as it read. -/
def KeepsMemory (s t : State) : Prop := ∀ a : Nat, t.readByte a = s.readByte a

/-- Every byte of memory outside the `len` bytes from `base` reads as it read. -/
def KeepsMemoryOutside (base len : Nat) (s t : State) : Prop :=
  ∀ a : Nat, ¬(base ≤ a ∧ a < base + len) → t.readByte a = s.readByte a

/-- The frame of an instruction that writes only the listed registers and PC: every other field of the state is as it was
(I, the stack and SP, the timers and TACC, memory, the framebuffer, the keys, every output, the fault registers,
LOADED, the draw count, the configuration), and so is every other register and every byte of memory. -/
def OnlyRegs (changed : List Reg) (s t : State) : Prop :=
  t = { s with v := t.v, pc := t.pc } ∧ KeepsRegs changed s t ∧ KeepsMemory s t

/-- The frame of an instruction that writes only PC. -/
def OnlyPc (s t : State) : Prop := t = { s with pc := t.pc } ∧ KeepsMemory s t

/-! ### The fetch (10_state.md R27) -/

/-- PC may be fetched from: both bytes of the word lie in memory, and PC is even where ALIGN_CHECK is set. -/
def PcValid (s : State) : Prop :=
  s.pc.toNat + 1 ≤ 0xFFF ∧ (s.config.alignCheck = true → s.pc.getLsbD 0 = false)

/-- The word at PC, high byte first, is `w` (20_memory.md R65). -/
def WordAtPc (s : State) (w : Word) : Prop :=
  ∃ hi lo : Byte, s.readByte s.pc.toNat = some hi ∧ s.readByte (s.pc.toNat + 1) = some lo ∧ w = hi ++ lo

/-- The step fetches and executes: the core is not halted, PC may be fetched from, and the word there is `w`. -/
def Executes (s : State) (w : Word) : Prop := s.halted = false ∧ PcValid s ∧ WordAtPc s w

/-- The state in which a step dispatches its instruction: stage 0 and the tick are done (30_encoding.md R100, R104). -/
def AtDispatch (s : State) : State := s.clearOutputs.tick

/-! ### The fault report (60_exceptions.md R241, R243) -/

/-- What the fault registers say of a state, cause by cause. -/
def FaultReportOk (s : State) : Prop :=
  match s.faultCause with
  | .none => s.faultPc = 0 ∧ s.faultAddr = 0
  | .stackOverflow => s.faultPc = s.pc ∧ PcValid s ∧ s.sp.val = 16 ∧ s.faultAddr.toNat < 0x1000
  | .stackUnderflow => s.faultPc = s.pc ∧ PcValid s ∧ s.sp.val = 0 ∧ s.faultAddr = 0
  | .memBounds => s.faultPc = s.pc ∧ PcValid s ∧ s.faultAddr.toNat = max s.i.toNat 0x1000
  | .pcBounds => s.faultPc = s.pc ∧ s.faultAddr = s.pc ∧ s.pc.toNat + 1 > 0xFFF
  | .pcMisaligned =>
    s.faultPc = s.pc ∧ s.faultAddr = s.pc ∧ s.config.alignCheck = true ∧ s.pc.getLsbD 0 = true
  | .illegalInstruction =>
    s.faultPc = s.pc ∧ PcValid s ∧ s.faultAddr = s.pc ∧ s.config.strictDecode = true

/-- A recorded fault leaves both per-step outputs 0 (60_exceptions.md R243, 30_encoding.md R101). -/
def FaultSilencesOutputs (s : State) : Prop :=
  s.faultCause ≠ .none → s.displayUpdated = false ∧ s.shouldBuzz = false

/-- The invariant of the machine: memory keeps its canonical form (the model's own, notes/assumptions/6.md), the fault
registers report truly (R241, R243; decisions D21, D22), and a recorded fault silences the outputs. -/
def Inv (s : State) : Prop :=
  s.mem.wf s.config = true ∧ FaultReportOk s ∧ FaultSilencesOutputs s

/-! ### Sprites (43_display.md R203 to R205) -/

/-- The n-row sprite at I, drawn at the origin (x0, y0), touches a pixel of the frame: the sprite bit that falls on it is set.
Row r of the sprite is the byte at I + r, and bit 7 is its leftmost column (R201); what falls outside the frame falls on
no pixel (R204). -/
def Touches (s : State) (x0 y0 n : Nat) (px : Fin 64) (py : Fin 32) : Prop :=
  x0 ≤ px.val ∧ px.val < x0 + 8 ∧ y0 ≤ py.val ∧ py.val < y0 + n ∧
    ∃ b, s.readByte (s.i.toNat + (py.val - y0)) = some b ∧ b.getLsbD (7 - (px.val - x0)) = true

/-- The origin of a draw: (V[x] mod 64, V[y] mod DRAW_Y_MOD), and its row count n, make the touched pixels (R202). -/
def DrawTouches (s : State) (x y : Reg) (n : Nibble) (px : Fin 64) (py : Fin 32) : Prop :=
  Touches s ((s.reg x).toNat % 64) ((s.reg y).toNat % s.config.drawYMod.val) n.toNat px py

/-! ### Single ticks (10_state.md R38) -/

/-- One tick of one timer: a non-zero timer falls by one. -/
def singleTick (timer : Byte) : Byte := if timer = 0 then 0 else timer - 1

end Sys2Proof.Safety
end

