-- ==== Sys2Proof/Certificates/Slice0/Obligations.lean ====
section
/-!
DEFINITION. The statements for the provers, in the order of the spec's files: encoding, the step, faults, reset, the host's
transactions, then the instructions family by family, then rules over all instructions. Each docstring names the rule it
formalises. Where a clause rests on one of the spec's own decisions (92_eei_decisions.md D<n>) or on a free value, it says so.
-/

open Sys2Proof Sys2Proof.Machine Sys2Proof.Safety

/-! ### Encoding (30_encoding.md) -/

/-- Words written out from the patterns of R96, one or more a family, decode to the instructions they stand for, and two
unmatched words of R97 decode to none. A sanity statement. That 0x03EE is a RET and 0x5121 an SE, whatever their ignored
nibble, is R95 (the spec's decision D9); that the nibble comes back as an operand is the MODEL's choice
(notes/assumptions/8.md, DESIGN CHOICE), not R96's. -/
def Obligations.SpecWordsDecode : Prop :=
  decodeWord 0x0123#16 = some (.sys 0x123#12) ∧ decodeWord 0x03EE#16 = some (.ret 0x3#4) ∧
  decodeWord 0x10EE#16 = some (.jp 0x0EE#12) ∧ decodeWord 0x5121#16 = some (.seVxVy 0x1#4 0x2#4 0x1#4) ∧
  decodeWord 0x7103#16 = some (.addVxKk 0x1#4 0x03#8) ∧ decodeWord 0x812E#16 = some (.shlVxVy 0x1#4 0x2#4) ∧
  decodeWord 0xA2F0#16 = some (.ldI 0x2F0#12) ∧ decodeWord 0xF265#16 = some (.ldVxMem 0x2#4) ∧
  decodeWord 0xD015#16 = some (.drw 0x0#4 0x1#4 0x5#4) ∧ decodeWord 0xF40A#16 = some (.ldVxK 0x4#4) ∧
  decodeWord 0xE0A1#16 = some (.sknp 0x0#4) ∧ decodeWord 0x8008#16 = none ∧ decodeWord 0xE000#16 = none

/-- Decode and encode agree: the bytes of any well-formed instruction, whatever follows them, decode to it, with every
operand at every value (R90 to R94, R96). The ignored fields that R95 (the spec's decision D9) allows are operands by the
model's choice (notes/assumptions/8.md, DESIGN CHOICE), so they come back too. -/
def Obligations.DecodeOfEncode : Prop :=
  ∀ (i : Instr) (rest : List Byte), i.wf = true → decode (encodeBytes i ++ rest) = .ok (i, rest)

/-- The other direction: a word that decodes is the encoding of the well-formed instruction it decodes to (R94, R96). That no
two words share an instruction and no bit of a word is lost is the MODEL's choice, not R95's: by R95 (the spec's decision D9)
words that differ in ignored bits alone are the same instruction, and the model tells them apart because it keeps those
bits as operands that no meaning reads (notes/assumptions/8.md, DESIGN CHOICE). -/
def Obligations.EncodeOfDecode : Prop :=
  ∀ (w : Word) (i : Instr), decodeWord w = some i → i.wf = true ∧ encode i = w

/-- R97's groups 8, E and F: the words that decode to no instruction are exactly these. (R97 also counts the SYS words, which
decode to SYS and are handled alike; the spec marks R97 as derived. That groups 0, 5 and 9 have no word here rests on R95,
the spec's decision D9, by which their ignored bits match anything.) -/
def Obligations.UnmatchedWordsAreGroups8EF : Prop :=
  ∀ w : Word, decodeWord w = none ↔
    (w.extractLsb' 12 4 = 0x8#4 ∧ w.extractLsb' 0 4 ∈ [0x8#4, 0x9#4, 0xA#4, 0xB#4, 0xC#4, 0xD#4, 0xF#4]) ∨
    (w.extractLsb' 12 4 = 0xE#4 ∧ w.extractLsb' 0 8 ∉ [0x9E#8, 0xA1#8]) ∨
    (w.extractLsb' 12 4 = 0xF#4 ∧
      w.extractLsb' 0 8 ∉ [0x07#8, 0x0A#8, 0x15#8, 0x18#8, 0x1E#8, 0x29#8, 0x33#8, 0x55#8, 0x65#8])

/-! ### The step (30_encoding.md R99 to R106) -/

/-- A step that fetches a word which decodes to an instruction is exec of that instruction on the state after stage 0 and the
tick, and around it: the end of the step where exec recorded no fault, and where it did, the fault report on the state
before the step, with the tick discarded (R100; R243, the spec's decisions D21, D22). That exec is stage 4 alone is the
model's division (notes/assumptions/11.md, DESIGN CHOICE). -/
def Obligations.StepRunsDecodedInstruction : Prop :=
  ∀ (s t : State) (w : Word) (i : Instr), Executes s w → decodeWord w = some i →
    exec i (AtDispatch s) = .next t →
    step s = .next
      (if t.faultCause = .none then
        { t with awaitKey := waitsForKey i && s.keys == 0, shouldBuzz := t.st != 0 }
      else
        { s with
          faultCause := t.faultCause, faultPc := s.pc, faultAddr := t.faultAddr
          displayUpdated := false, shouldBuzz := false })

/-- R98: a fetched word that matches no row is a no-op that advances PC by 2 (the tick and the end of the step still run),
or, with STRICT_DECODE (the spec's decision D7), the fault ILLEGAL_INSTRUCTION with FAULT_ADDR = PC. -/
def Obligations.UnmatchedWordIsNoOp : Prop :=
  ∀ (s : State) (w : Word), Executes s w → decodeWord w = none →
    step s = .next
      (if s.config.strictDecode then
        { s with
          faultCause := .illegalInstruction, faultPc := s.pc, faultAddr := s.pc
          displayUpdated := false, shouldBuzz := false }
      else
        { AtDispatch s with
          pc := s.pc + 2, awaitKey := false, shouldBuzz := (AtDispatch s).st != 0 })

/-- R101 with R47 (the spec's decision D37): a step of a core that is not loaded, or that has recorded a fault, clears the two
per-step outputs and changes nothing else. -/
def Obligations.HaltedStepOnlyClearsOutputs : Prop :=
  ∀ s : State, s.loaded = false ∨ s.faultCause ≠ .none →
    step s = .next { s with displayUpdated := false, shouldBuzz := false }

/-- R38: the tick takes the whole ticks out of TACC and lowers both timers by them with floor 0, which is the same as that many
single ticks; it does not depend on how the same time is cut into pieces; and it runs once in every step that executes,
before the dispatch, so that a timer the instruction sets is not ticked. -/
def Obligations.TickTakesWholeTicks : Prop :=
  (∀ s : State,
    s.tick = { s with tacc := s.tick.tacc, dt := s.tick.dt, st := s.tick.st } ∧
    s.tick.tacc = s.tacc % s.config.tickUnits.val ∧
    s.tick.dt.toNat = s.dt.toNat - s.tacc / s.config.tickUnits.val ∧
    s.tick.st.toNat = s.st.toNat - s.tacc / s.config.tickUnits.val ∧
    s.tick.dt = singleTick^[s.tacc / s.config.tickUnits.val] s.dt ∧
    s.tick.st = singleTick^[s.tacc / s.config.tickUnits.val] s.st) ∧
  (∀ (s : State) (d e : Nat), ((s.advanceTime d).tick.advanceTime e).tick = (s.advanceTime (d + e)).tick) ∧
  (∀ s t : State, s.halted = false → step s = .next t → t.faultCause = .none →
    t.tacc = s.tick.tacc ∧
    (t.dt = s.tick.dt ∨ ∃ w x, Executes s w ∧ decodeWord w = some (.ldDtVx x) ∧ t.dt = s.reg x) ∧
    (t.st = s.tick.st ∨ ∃ w x, Executes s w ∧ decodeWord w = some (.ldStVx x) ∧ t.st = s.reg x))

/-- R36: no step raises a timer unless its instruction is the one that sets it, and a tick stops at 0 without wrapping. -/
def Obligations.TimersFallUnlessSet : Prop :=
  (∀ s : State,
    s.tick.dt.toNat = s.dt.toNat - s.tacc / s.config.tickUnits.val ∧
    s.tick.st.toNat = s.st.toNat - s.tacc / s.config.tickUnits.val) ∧
  ∀ s t : State, step s = .next t →
    (t.dt.toNat ≤ s.dt.toNat ∨ ∃ w x, Executes s w ∧ decodeWord w = some (.ldDtVx x)) ∧
    (t.st.toNat ≤ s.st.toNat ∨ ∃ w x, Executes s w ∧ decodeWord w = some (.ldStVx x))

/-- R106 (the spec's decisions D26, D27, D40): after a step that executed and did not fault, should_buzz is ST ≠ 0,
display_updated is 1 exactly for CLS and DRW, and AWAIT_KEY is 1 exactly for an Fx0A that found no key. -/
def Obligations.EndOfStepOutputs : Prop :=
  ∀ (s t : State) (w : Word), Executes s w → step s = .next t → t.faultCause = .none →
    t.shouldBuzz = (t.st != 0) ∧
    (t.displayUpdated = true ↔
      (∃ ign, decodeWord w = some (.cls ign)) ∨ ∃ x y n, decodeWord w = some (.drw x y n)) ∧
    (t.awaitKey = true ↔ (∃ x, decodeWord w = some (.ldVxK x)) ∧ s.keys = 0)

/-- R99, R98, R243: whatever the state, a step answers a next state, and so does every instruction: nothing is refused, and the
spec's faults are recorded in the state (notes/assumptions/5.md). -/
def Obligations.EveryStepAnswersNext : Prop :=
  (∀ s : State, ∃ t, step s = .next t) ∧ ∀ (i : Instr) (s : State), ∃ t, exec i s = .next t

/-! ### Faults (60_exceptions.md) -/

/-- R102, R244, R245, R249 (the spec's decisions D19, D20, D23): the fetch of a core that is not halted raises PC_BOUNDS where a
byte of the word lies outside memory, else PC_MISALIGNED at an odd PC with ALIGN_CHECK, each with FAULT_ADDR = PC and
nothing else changed; elsewhere a step raises neither. -/
def Obligations.FetchChecksBoundsThenAlignment : Prop :=
  ∀ s : State, s.halted = false →
    (s.pc.toNat + 1 > 0xFFF → step s = .next
      { s with
        faultCause := .pcBounds, faultPc := s.pc, faultAddr := s.pc
        displayUpdated := false, shouldBuzz := false }) ∧
    (s.pc.toNat + 1 ≤ 0xFFF → s.config.alignCheck = true → s.pc.getLsbD 0 = true → step s = .next
      { s with
        faultCause := .pcMisaligned, faultPc := s.pc, faultAddr := s.pc
        displayUpdated := false, shouldBuzz := false }) ∧
    (PcValid s → ∀ t, step s = .next t → t.faultCause ≠ .pcBounds ∧ t.faultCause ≠ .pcMisaligned)

/-- R72 with what R243 adds to it (the spec's decisions D21, D22: FAULT_PC is the PC of the faulting step, both per-step outputs
become 0, the tick is discarded): a step that raises a fault changes the fault registers and the per-step outputs, and
nothing else: no memory, no register, no timer, no pixel. -/
def Obligations.FaultingStepWritesOnlyItsReport : Prop :=
  ∀ s t : State, s.faultCause = .none → step s = .next t → t.faultCause ≠ .none →
    t = { s with
      faultCause := t.faultCause, faultPc := s.pc, faultAddr := t.faultAddr
      displayUpdated := false, shouldBuzz := false }

/-- R241, R249 (the spec's decisions D21, D23): which instruction raises which cause, and on what condition. -/
def Obligations.EachInstructionRaisesItsOwnCause : Prop :=
  ∀ (i : Instr) (s t : State), s.faultCause = .none → exec i s = .next t →
    match t.faultCause with
    | .none => True
    | .stackOverflow => ∃ nnn, i = .call nnn ∧ s.sp.val = 16 ∧ t.faultAddr.toNat = nnn.toNat
    | .stackUnderflow => (∃ ign, i = .ret ign) ∧ s.sp.val = 0 ∧ t.faultAddr = 0
    | .memBounds =>
      t.faultAddr.toNat = max s.i.toNat 0x1000 ∧
      ((∃ x, i = .ldBVx x ∧ s.i.toNat + 2 > 0xFFF) ∨ (∃ x, i = .ldMemVx x ∧ s.i.toNat + x.toNat > 0xFFF) ∨
        (∃ x, i = .ldVxMem x ∧ s.i.toNat + x.toNat > 0xFFF) ∨
        ∃ x y n, i = .drw x y n ∧ 1 ≤ n.toNat ∧ s.i.toNat + n.toNat - 1 > 0xFFF)
    | .pcBounds => False
    | .pcMisaligned => False
    | .illegalInstruction => (∃ nnn, i = .sys nnn) ∧ s.config.strictDecode = true ∧ t.faultAddr = s.pc

/-- R251, R46, R274 (the spec's decision D21): once a fault is recorded, no transaction changes the report or lets the core run
again, a successful load included. -/
def Obligations.FaultReportIsSticky : Prop :=
  ∀ (tr : Transaction) (s t : State), s.faultCause ≠ .none → transact tr s = .next t →
    t.faultCause = s.faultCause ∧ t.faultPc = s.faultPc ∧ t.faultAddr = s.faultAddr ∧ t.halted = true

/-! ### The invariant -/

/-- Every step keeps the invariant: memory stays in canonical form, the fault registers report truly, cause by cause, and a
recorded fault silences the outputs. Of Inv, the canonical form of memory is the MODEL's own (notes/assumptions/6.md, DESIGN CHOICE; the
spec has no such form), and the fault report is R241 and R243, the spec's decisions D21 and D22. -/
def Obligations.StepKeepsInv : Prop := ∀ s t : State, Inv s → step s = .next t → Inv t

/-- The reset state meets the invariant, whatever the construction arguments. The fault registers are 0 at reset by R46, R270 (the
spec's decision D21), and reset memory, which lists nothing, is canonical by the MODEL's choice of that form
(notes/assumptions/6.md, DESIGN CHOICE). -/
def Obligations.ConstructMeetsInv : Prop := ∀ c : Config, Inv (State.construct c)

/-- Every transaction of the host keeps the invariant too: load, advance_time, set_key and step (20_memory.md R77).
Of Inv, the canonical form of memory is the MODEL's own (notes/assumptions/6.md, DESIGN CHOICE; the
spec has no such form), and the fault report is R241 and R243, the spec's decisions D21 and D22. -/
def Obligations.TransactionsKeepInv : Prop :=
  ∀ (tr : Transaction) (s t : State), Inv s → transact tr s = .next t → Inv t

/-- R9, R42, R48: no step changes the construction arguments, which the model holds in State (notes/assumptions/1.md, DESIGN CHOICE),
the key latch or LOADED. -/
def Obligations.StepKeepsConfigKeysLoaded : Prop :=
  ∀ s t : State, step s = .next t → t.config = s.config ∧ t.keys = s.keys ∧ t.loaded = s.loaded

/-! ### Reset (70_reset_and_hazards.md, 20_memory.md) -/

/-- R28 and R63: at reset PC is 0x200, and memory is zero but for the 80 font bytes at FONT_BASE. -/
def Obligations.ResetPcAndMemory : Prop :=
  ∀ c : Config, (State.construct c).pc = 0x200#16 ∧
    (∀ j : Fin 80, (State.construct c).readByte (c.fontBase.val + j.val) = some (c.fontData.get j)) ∧
    ∀ a : Nat, a < 0x1000 → ¬(c.fontBase.val ≤ a ∧ a < c.fontBase.val + 80) →
      (State.construct c).readByte a = some 0

/-- R270 beyond PC and memory (the spec's own choice, D35, D36, D21, D37, D40; notes/assumptions/12.md): every
register, stack entry, timer, pixel, key, output and fault register is 0 at reset, and the core is not loaded, so it is
halted. -/
def Obligations.ResetRegistersAreZero : Prop :=
  ∀ c : Config,
    (∀ r : Reg, (State.construct c).reg r = 0) ∧ (State.construct c).i = 0 ∧ (State.construct c).sp.val = 0 ∧
    (∀ j : Fin 16, (State.construct c).stack.get j = 0) ∧ (State.construct c).dt = 0 ∧
    (State.construct c).st = 0 ∧ (State.construct c).tacc = 0 ∧
    (∀ px py, (State.construct c).fb.pixel px py = false) ∧ (State.construct c).keys = 0 ∧
    (State.construct c).awaitKey = false ∧ (State.construct c).displayUpdated = false ∧
    (State.construct c).shouldBuzz = false ∧ (State.construct c).faultReport = (0, 0, 0) ∧
    (State.construct c).loaded = false ∧ (State.construct c).halted = true

/-! ### The host's transactions (20_memory.md) -/

/-- R78, R274 (the spec's decision D36): a load of at most 3584 bytes writes them from 0x200, sets LOADED and changes nothing else;
a longer one, or a failure reported from outside, writes nothing and clears LOADED. -/
def Obligations.LoadWritesProgram : Prop :=
  ∀ (s : State) (bytes : List Byte),
    (bytes.length ≤ 3584 →
      (s.load bytes).2 = true ∧
      (∀ (j : Nat) (h : j < bytes.length), (s.load bytes).1.readByte (0x200 + j) = some bytes[j]) ∧
      KeepsMemoryOutside 0x200 bytes.length s (s.load bytes).1 ∧
      (s.load bytes).1 = { s with mem := (s.load bytes).1.mem, loaded := true }) ∧
    (3584 < bytes.length → s.load bytes = ({ s with loaded := false }, false)) ∧
    s.loadUnreadable = ({ s with loaded := false }, false)

/-- R79, R81 (the spec's decisions D24, D33): advance_time adds to TACC alone; set_key writes one key of the latch alone and refuses
an index outside 0..15. -/
def Obligations.AdvanceTimeAndSetKey : Prop :=
  (∀ (s : State) (d : Nat), s.advanceTime d = { s with tacc := s.tacc + d }) ∧
  (∀ (s : State) (k : Nat) (p : Bool), k < 16 →
    ∃ t, s.setKey k p = .next t ∧ t.key k = p ∧ (∀ j : Nat, j ≠ k → t.key j = s.key j) ∧
      t = { s with keys := t.keys }) ∧
  ∀ (s : State) (k : Nat) (p : Bool), 16 ≤ k → s.setKey k p = .refused (.keyOutsideInterface k)

/-! ### Control flow (40_control_flow.md) -/

/-- R120 (the spec's decisions D7, D8): SYS advances PC by 2 and changes nothing else; with STRICT_DECODE it raises
ILLEGAL_INSTRUCTION. -/
def Obligations.SysIsNoOp : Prop :=
  ∀ (nnn : Addr) (s : State),
    (s.config.strictDecode = false →
      ∃ t, exec (.sys nnn) s = .next t ∧ t.pc = s.pc + 2 ∧ OnlyPc s t) ∧
    (s.config.strictDecode = true → exec (.sys nnn) s = .next
      { s with
        faultCause := .illegalInstruction, faultPc := s.pc, faultAddr := s.pc
        displayUpdated := false, shouldBuzz := false })

/-- R122 (the spec's decisions D16, D17): RET pops the top entry into PC, or raises STACK_UNDERFLOW at depth 0, whatever the nibble
that R95 (decision D9) ignores, an operand by the model's choice (notes/assumptions/8.md, DESIGN CHOICE). -/
def Obligations.RetPopsPc : Prop :=
  ∀ (ign : Nibble) (s : State),
    (∀ k : Fin 16, s.sp.val = k.val + 1 →
      ∃ t, exec (.ret ign) s = .next t ∧ t.pc = s.stack.get k ∧ t.sp.val = k.val ∧
        t = { s with pc := t.pc, sp := t.sp } ∧ KeepsRegs [] s t ∧ KeepsMemory s t) ∧
    (s.sp.val = 0 → exec (.ret ign) s = .next
      { s with
        faultCause := .stackUnderflow, faultPc := s.pc, faultAddr := 0
        displayUpdated := false, shouldBuzz := false })

/-- R126 (the spec's decision D16): CALL pushes PC + 2 and jumps, or raises STACK_OVERFLOW at depth 16 with FAULT_ADDR = nnn. -/
def Obligations.CallPushesReturnAddress : Prop :=
  ∀ (nnn : Addr) (s : State),
    (∀ k : Fin 16, s.sp.val = k.val →
      ∃ t, exec (.call nnn) s = .next t ∧ t.stack.get k = s.pc + 2 ∧
        (∀ j : Fin 16, j ≠ k → t.stack.get j = s.stack.get j) ∧ t.sp.val = k.val + 1 ∧
        t.pc.toNat = nnn.toNat ∧ t = { s with pc := t.pc, sp := t.sp, stack := t.stack } ∧
        KeepsRegs [] s t ∧ KeepsMemory s t) ∧
    (s.sp.val = 16 → exec (.call nnn) s = .next
      { s with
        faultCause := .stackOverflow, faultPc := s.pc, faultAddr := nnn.setWidth 16
        displayUpdated := false, shouldBuzz := false })

/-- R122 and R126 together (D16): a RET right after a CALL goes on at the address after the CALL, at the depth before it. That the
storage of the popped entry keeps its value is the model's reading (notes/assumptions/15.md, DEDUCED). -/
def Obligations.ReturnUndoesCall : Prop :=
  ∀ (nnn : Addr) (ign : Nibble) (s t : State), s.sp.val < 16 → exec (.call nnn) s = .next t →
    ∃ u, exec (.ret ign) t = .next u ∧ u.pc = s.pc + 2 ∧ u.sp = s.sp ∧
      u = { s with pc := u.pc, stack := t.stack }

/-- R124: the word 1nnn is JP nnn; it sets PC to nnn and changes nothing else, and raises nothing; a target that may not be fetched
from faults at the next fetch, 0xFFF with PC_BOUNDS and another odd target with PC_MISALIGNED under ALIGN_CHECK; and a
jump to itself goes on for ever without halting, with nothing but PC written by it. -/
def Obligations.JpSetsPc : Prop :=
  ∀ (nnn : Addr) (s : State),
    decodeWord (0x1#4 ++ nnn) = some (.jp nnn) ∧
    ∃ t, exec (.jp nnn) s = .next t ∧ t.pc.toNat = nnn.toNat ∧ OnlyPc s t ∧
      (s.halted = false → nnn = 0xFFF#12 → ∃ u, step t = .next u ∧ u.faultCause = .pcBounds) ∧
      (s.halted = false → nnn ≠ 0xFFF#12 → nnn.getLsbD 0 = true → s.config.alignCheck = true →
        ∃ u, step t = .next u ∧ u.faultCause = .pcMisaligned) ∧
      (s.pc.toNat = nnn.toNat → t = s)

/-- §8's property quoted in R124's corner case, over any number of steps: a core that executes a jump to its own address never
halts, stays there, and corrupts no register, memory cell, stack entry or pixel. -/
def Obligations.JumpToSelfLoopsUnharmed : Prop :=
  ∀ (nnn : Addr) (s : State), Executes s (0x1#4 ++ nnn) → s.pc.toNat = nnn.toNat →
    ∀ k : Nat, ∃ t, Host.Core.run Sys2Proof.core k s = .next t ∧ t.halted = false ∧
      t = { s with
        tacc := t.tacc, dt := t.dt, st := t.st
        awaitKey := t.awaitKey, displayUpdated := t.displayUpdated, shouldBuzz := t.shouldBuzz }

/-- R128 and R130: the words 3xkk and 4xkk are the skips on an immediate; PC moves by 4 when the condition holds and by 2
otherwise, for every x (VF included), and nothing else changes. -/
def Obligations.SkipsOnImmediate : Prop :=
  ∀ (x : Reg) (kk : Byte) (s : State),
    (decodeWord (0x3#4 ++ x ++ kk) = some (.seVxKk x kk) ∧
      ∃ t, exec (.seVxKk x kk) s = .next t ∧
        t.pc = (if s.reg x = kk then s.pc + 4 else s.pc + 2) ∧ OnlyPc s t) ∧
    decodeWord (0x4#4 ++ x ++ kk) = some (.sneVxKk x kk) ∧
      ∃ t, exec (.sneVxKk x kk) s = .next t ∧
        t.pc = (if s.reg x ≠ kk then s.pc + 4 else s.pc + 2) ∧ OnlyPc s t

/-- R132 and R134: the skips on two registers, whatever the low nibble that R95 (the spec's decision D9) ignores, an operand by the
model's choice (notes/assumptions/8.md, DESIGN CHOICE). -/
def Obligations.SkipsOnRegisters : Prop :=
  ∀ (x y : Reg) (ign : Nibble) (s : State),
    (∃ t, exec (.seVxVy x y ign) s = .next t ∧
      t.pc = (if s.reg x = s.reg y then s.pc + 4 else s.pc + 2) ∧ OnlyPc s t) ∧
    ∃ t, exec (.sneVxVy x y ign) s = .next t ∧
      t.pc = (if s.reg x ≠ s.reg y then s.pc + 4 else s.pc + 2) ∧ OnlyPc s t

/-- R136 (the spec's decision D15): JP V0 jumps to nnn + V0, not wrapped to 12 bits. -/
def Obligations.JpV0AddsV0 : Prop :=
  ∀ (nnn : Addr) (s : State),
    ∃ t, exec (.jpV0 nnn) s = .next t ∧ t.pc.toNat = nnn.toNat + (s.reg 0).toNat ∧ OnlyPc s t

/-! ### Loads, arithmetic, logic, shifts, random (41_alu.md) -/

/-- R150 and R154 (meanings the spec supplies from general knowledge, notes/assumptions/13.md): the words 6xkk and 8xy0 load a
register with an immediate and with a register. -/
def Obligations.LoadsRegister : Prop :=
  (∀ (x : Reg) (kk : Byte) (s : State),
    decodeWord (0x6#4 ++ x ++ kk) = some (.ldVxKk x kk) ∧
    ∃ t, exec (.ldVxKk x kk) s = .next t ∧ t.reg x = kk ∧ t.pc = s.pc + 2 ∧ OnlyRegs [x] s t) ∧
  ∀ (x y : Reg) (s : State),
    decodeWord (0x8#4 ++ x ++ y ++ 0x0#4) = some (.ldVxVy x y) ∧
    ∃ t, exec (.ldVxVy x y) s = .next t ∧ t.reg x = s.reg y ∧ t.pc = s.pc + 2 ∧ OnlyRegs [x] s t

/-- R152 (the spec's decision D13: no flag): ADD Vx, kk adds mod 256 and writes no register but V[x]. -/
def Obligations.AddImmediateSetsNoFlag : Prop :=
  ∀ (x : Reg) (kk : Byte) (s : State),
    ∃ t, exec (.addVxKk x kk) s = .next t ∧
      (t.reg x).toNat = ((s.reg x).toNat + kk.toNat) % 256 ∧ t.pc = s.pc + 2 ∧ OnlyRegs [x] s t

/-- R156, R158, R160 (the spec's decision D12: VF unchanged unless x = F): the logic instructions, bit by bit. -/
def Obligations.LogicBitByBit : Prop :=
  ∀ (x y : Reg) (s : State),
    (∃ t, exec (.orVxVy x y) s = .next t ∧ t.pc = s.pc + 2 ∧ OnlyRegs [x] s t ∧
      ∀ k : Nat, (t.reg x).getLsbD k = ((s.reg x).getLsbD k || (s.reg y).getLsbD k)) ∧
    (∃ t, exec (.andVxVy x y) s = .next t ∧ t.pc = s.pc + 2 ∧ OnlyRegs [x] s t ∧
      ∀ k : Nat, (t.reg x).getLsbD k = ((s.reg x).getLsbD k && (s.reg y).getLsbD k)) ∧
    ∃ t, exec (.xorVxVy x y) s = .next t ∧ t.pc = s.pc + 2 ∧ OnlyRegs [x] s t ∧
      ∀ k : Nat, (t.reg x).getLsbD k = ((s.reg x).getLsbD k ^^ (s.reg y).getLsbD k)

/-- R162: the word 8xy4 adds V[x] and V[y]; V[x] gets the sum mod 256, VF the carry, and with x = F the carry stands. -/
def Obligations.AddSetsCarry : Prop :=
  ∀ (x y : Reg) (s : State),
    decodeWord (0x8#4 ++ x ++ y ++ 0x4#4) = some (.addVxVy x y) ∧
    ∃ t, exec (.addVxVy x y) s = .next t ∧
      (x ≠ Reg.flag → (t.reg x).toNat = ((s.reg x).toNat + (s.reg y).toNat) % 256) ∧
      t.reg Reg.flag = (if (s.reg x).toNat + (s.reg y).toNat > 255 then 1 else 0) ∧
      t.pc = s.pc + 2 ∧ OnlyRegs [x, Reg.flag] s t

/-- R164: the word 8xy5 subtracts V[y] from V[x]; VF is 1 exactly when V[x] ≥ V[y], and with x = F the flag stands. -/
def Obligations.SubSetsNoBorrow : Prop :=
  ∀ (x y : Reg) (s : State),
    decodeWord (0x8#4 ++ x ++ y ++ 0x5#4) = some (.subVxVy x y) ∧
    ∃ t, exec (.subVxVy x y) s = .next t ∧
      (x ≠ Reg.flag → (t.reg x).toNat = ((s.reg x).toNat + 256 - (s.reg y).toNat) % 256) ∧
      t.reg Reg.flag = (if (s.reg x).toNat ≥ (s.reg y).toNat then 1 else 0) ∧
      t.pc = s.pc + 2 ∧ OnlyRegs [x, Reg.flag] s t

/-- R168 (the spec's decision D42): SUBN is V[y] - V[x] into V[x]; VF is 1 exactly when V[y] ≥ V[x]. -/
def Obligations.SubnReversesOperands : Prop :=
  ∀ (x y : Reg) (s : State),
    ∃ t, exec (.subnVxVy x y) s = .next t ∧
      (x ≠ Reg.flag → (t.reg x).toNat = ((s.reg y).toNat + 256 - (s.reg x).toNat) % 256) ∧
      t.reg Reg.flag = (if (s.reg y).toNat ≥ (s.reg x).toNat then 1 else 0) ∧
      t.pc = s.pc + 2 ∧ OnlyRegs [x, Reg.flag] s t

/-- R166 and R170 (the spec's decision D2: the source register is QUIRK_SHIFT_SRC's): the shifts by one, VF the bit shifted out, for
both values of the option. -/
def Obligations.ShiftsByOne : Prop :=
  ∀ (x y : Reg) (s : State) (b : Byte),
    (s.config.shiftSource = .vy ∧ b = s.reg y) ∨ (s.config.shiftSource = .vx ∧ b = s.reg x) →
    (∃ t, exec (.shrVxVy x y) s = .next t ∧
      (x ≠ Reg.flag → (t.reg x).toNat = b.toNat / 2) ∧
      t.reg Reg.flag = (if b.getLsbD 0 = true then 1 else 0) ∧
      t.pc = s.pc + 2 ∧ OnlyRegs [x, Reg.flag] s t) ∧
    ∃ t, exec (.shlVxVy x y) s = .next t ∧
      (x ≠ Reg.flag → (t.reg x).toNat = b.toNat * 2 % 256) ∧
      t.reg Reg.flag = (if b.getLsbD 7 = true then 1 else 0) ∧
      t.pc = s.pc + 2 ∧ OnlyRegs [x, Reg.flag] s t

/-- R172 (the spec's decision D34): RND takes a fresh free byte, the next of the uninterpreted Config.freeByte, and masks it by kk,
whatever that byte is (notes/assumptions/4.md); no bit outside kk is ever set. -/
def Obligations.RndMasksFreeDraw : Prop :=
  ∀ (x : Reg) (kk : Byte) (s : State),
    ∃ t, exec (.rnd x kk) s = .next t ∧ t.reg x = Config.freeByte s.draws &&& kk ∧
      (∀ k : Nat, kk.getLsbD k = false → (t.reg x).getLsbD k = false) ∧
      t.draws = s.draws + 1 ∧ t.pc = s.pc + 2 ∧ t = { s with v := t.v, pc := t.pc, draws := t.draws } ∧
      KeepsRegs [x] s t ∧ KeepsMemory s t

/-! ### Address register and memory (42_index_memory.md) -/

/-- R180 (supplied from general knowledge, notes/assumptions/13.md): the word Annn sets I to nnn. -/
def Obligations.LdISetsI : Prop :=
  ∀ (nnn : Addr) (s : State),
    decodeWord (0xA#4 ++ nnn) = some (.ldI nnn) ∧
    ∃ t, exec (.ldI nnn) s = .next t ∧ t.i.toNat = nnn.toNat ∧ t.pc = s.pc + 2 ∧
      t = { s with i := t.i, pc := t.pc } ∧ KeepsRegs [] s t ∧ KeepsMemory s t

/-- R182, R184 (the spec's decisions D14, D6): ADD I, Vx adds mod 65536 with no flag; LD F, Vx points I at the glyph of the low
nibble of V[x]. -/
def Obligations.AddIAndGlyphSetI : Prop :=
  ∀ (x : Reg) (s : State),
    (∃ t, exec (.addIVx x) s = .next t ∧ t.i.toNat = (s.i.toNat + (s.reg x).toNat) % 65536 ∧
      t.pc = s.pc + 2 ∧ t = { s with i := t.i, pc := t.pc } ∧ KeepsRegs [] s t ∧ KeepsMemory s t) ∧
    ∃ t, exec (.ldFVx x) s = .next t ∧
      t.i.toNat = s.config.fontBase.val + 5 * ((s.reg x).toNat % 16) ∧
      t.pc = s.pc + 2 ∧ t = { s with i := t.i, pc := t.pc } ∧ KeepsRegs [] s t ∧ KeepsMemory s t

/-- R186: the word Fx33 stores the decimal digits of V[x] at I, I + 1, I + 2 and changes nothing else but PC, or, where I + 2 is
above 0xFFF, raises MEM_BOUNDS and writes no byte. -/
def Obligations.BcdStoresDigits : Prop :=
  ∀ (x : Reg) (s : State),
    decodeWord (0xF#4 ++ x ++ 0x33#8) = some (.ldBVx x) ∧
    (s.i.toNat + 2 ≤ 0xFFF →
      ∃ t, exec (.ldBVx x) s = .next t ∧
        (∃ h d u : Byte,
          t.readByte s.i.toNat = some h ∧ t.readByte (s.i.toNat + 1) = some d ∧
          t.readByte (s.i.toNat + 2) = some u ∧ h.toNat = (s.reg x).toNat / 100 ∧
          d.toNat = (s.reg x).toNat / 10 % 10 ∧ u.toNat = (s.reg x).toNat % 10) ∧
        t.pc = s.pc + 2 ∧ t = { s with mem := t.mem, pc := t.pc } ∧ KeepsRegs [] s t ∧
        KeepsMemoryOutside s.i.toNat 3 s t) ∧
    (s.i.toNat + 2 > 0xFFF →
      ∃ t, exec (.ldBVx x) s = .next t ∧ t.faultCause = .memBounds ∧
        t = { s with
          faultCause := t.faultCause, faultPc := t.faultPc, faultAddr := t.faultAddr
          displayUpdated := t.displayUpdated, shouldBuzz := t.shouldBuzz })

/-- R188 (QUIRK_LS_INC by the spec's decision D3): Fx55 stores V0 to Vx from I upward and advances I by x + 1 with the option, or,
where I + x is above 0xFFF, raises MEM_BOUNDS and writes nothing. -/
def Obligations.DumpStoresRegisters : Prop :=
  ∀ (x : Reg) (s : State),
    (s.i.toNat + x.toNat ≤ 0xFFF →
      ∃ t, exec (.ldMemVx x) s = .next t ∧
        (∀ r : Reg, r.toNat ≤ x.toNat → t.readByte (s.i.toNat + r.toNat) = some (s.reg r)) ∧
        t.i.toNat = (if s.config.loadStoreIncrement then s.i.toNat + x.toNat + 1 else s.i.toNat) ∧
        t.pc = s.pc + 2 ∧ t = { s with mem := t.mem, i := t.i, pc := t.pc } ∧ KeepsRegs [] s t ∧
        KeepsMemoryOutside s.i.toNat (x.toNat + 1) s t) ∧
    (s.i.toNat + x.toNat > 0xFFF →
      ∃ t, exec (.ldMemVx x) s = .next t ∧ t.faultAddr.toNat = max s.i.toNat 0x1000 ∧
        t = { s with
          faultCause := .memBounds, faultPc := s.pc, faultAddr := t.faultAddr
          displayUpdated := false, shouldBuzz := false })

/-- R190: the word Fx65 loads V0 to Vx from I upward, VF as any other register, and advances I by x + 1 with QUIRK_LS_INC, or, where
I + x is above 0xFFF, raises MEM_BOUNDS and writes nothing; and after a dump (Fx55) a load from the dump's I gives the
registers back. -/
def Obligations.LoadReadsRegisters : Prop :=
  ∀ (x : Reg) (s : State),
    decodeWord (0xF#4 ++ x ++ 0x65#8) = some (.ldVxMem x) ∧
    (s.i.toNat + x.toNat ≤ 0xFFF →
      ∃ t, exec (.ldVxMem x) s = .next t ∧
        (∀ r : Reg, r.toNat ≤ x.toNat → s.readByte (s.i.toNat + r.toNat) = some (t.reg r)) ∧
        (∀ r : Reg, x.toNat < r.toNat → t.reg r = s.reg r) ∧
        t.i.toNat = (if s.config.loadStoreIncrement then s.i.toNat + x.toNat + 1 else s.i.toNat) ∧
        t.pc = s.pc + 2 ∧ t = { s with v := t.v, i := t.i, pc := t.pc } ∧ KeepsMemory s t) ∧
    (s.i.toNat + x.toNat > 0xFFF →
      ∃ t, exec (.ldVxMem x) s = .next t ∧ t.faultCause = .memBounds ∧
        t = { s with
          faultCause := t.faultCause, faultPc := t.faultPc, faultAddr := t.faultAddr
          displayUpdated := t.displayUpdated, shouldBuzz := t.shouldBuzz }) ∧
    ∀ t u : State, s.i.toNat + x.toNat ≤ 0xFFF → exec (.ldMemVx x) s = .next t →
      u.mem = t.mem → u.config = t.config → u.i = s.i →
      ∃ w, exec (.ldVxMem x) u = .next w ∧ ∀ r : Reg, r.toNat ≤ x.toNat → w.reg r = s.reg r

/-! ### Display (43_display.md) -/

/-- R200 (display_updated by the spec's decision D27): CLS clears every pixel, sets display_updated and changes nothing else but
PC, whatever the nibble that R95 (decision D9) ignores, an operand by the model's choice (notes/assumptions/8.md, DESIGN
CHOICE). -/
def Obligations.ClsClearsFrame : Prop :=
  ∀ (ign : Nibble) (s : State),
    ∃ t, exec (.cls ign) s = .next t ∧ (∀ px py, t.fb.pixel px py = false) ∧ t.displayUpdated = true ∧
      t.pc = s.pc + 2 ∧ t = { s with fb := t.fb, displayUpdated := t.displayUpdated, pc := t.pc } ∧
      KeepsRegs [] s t ∧ KeepsMemory s t

/-- R203 with R201, R202, R206 (the spec's decisions D11, D27, D29, D30): where the sprite lies in memory, DRW toggles exactly the
pixels its set bits fall on, from the origin read before VF is written; VF is 1 exactly when a pixel that was set was
toggled; and nothing else changes but display_updated and PC. -/
def Obligations.DrwTogglesTouchedPixels : Prop :=
  ∀ (x y : Reg) (n : Nibble) (s : State), n = 0 ∨ s.i.toNat + n.toNat - 1 ≤ 0xFFF →
    ∃ t, exec (.drw x y n) s = .next t ∧
      (∀ px py, DrawTouches s x y n px py → t.fb.pixel px py = !s.fb.pixel px py) ∧
      (∀ px py, ¬DrawTouches s x y n px py → t.fb.pixel px py = s.fb.pixel px py) ∧
      (t.reg Reg.flag = 1 ∨ t.reg Reg.flag = 0) ∧
      (t.reg Reg.flag = 1 ↔ ∃ px py, DrawTouches s x y n px py ∧ s.fb.pixel px py = true) ∧
      t.displayUpdated = true ∧ t.pc = s.pc + 2 ∧
      t = { s with v := t.v, fb := t.fb, displayUpdated := t.displayUpdated, pc := t.pc } ∧
      KeepsRegs [Reg.flag] s t ∧ KeepsMemory s t

/-- R203's exception and R207's first case (the spec's decisions D28, D31): a sprite of n ≥ 1 rows that does not lie in memory raises
MEM_BOUNDS, clipped rows included, and writes nothing; with n = 0 nothing is drawn or read, whatever I is, VF is 0 and
display_updated 1. -/
def Obligations.DrwBoundsAndZeroRows : Prop :=
  (∀ (x y : Reg) (n : Nibble) (s : State), 1 ≤ n.toNat → s.i.toNat + n.toNat - 1 > 0xFFF →
    ∃ t, exec (.drw x y n) s = .next t ∧ t.faultAddr.toNat = max s.i.toNat 0x1000 ∧
      t = { s with
        faultCause := .memBounds, faultPc := s.pc, faultAddr := t.faultAddr
        displayUpdated := false, shouldBuzz := false }) ∧
  ∀ (x y : Reg) (s : State),
    ∃ t, exec (.drw x y 0) s = .next t ∧ t.fb = s.fb ∧ t.reg Reg.flag = 0 ∧ t.displayUpdated = true ∧
      t.pc = s.pc + 2 ∧ t = { s with v := t.v, displayUpdated := t.displayUpdated, pc := t.pc } ∧
      KeepsRegs [Reg.flag] s t ∧ KeepsMemory s t

/-- R204: a draw is clipped and never wraps. A pixel it changes lies at or right of the origin's column and within 8 of it, at or
below the origin's row and within n of it; and VF counts only pixels of the frame, those that went from set to unset. So a
sprite drawn at column 60 changes columns 60 to 63 alone. -/
def Obligations.DrawsAreClipped : Prop :=
  ∀ (x y : Reg) (n : Nibble) (s t : State), s.faultCause = .none → exec (.drw x y n) s = .next t →
    t.faultCause = .none →
    (∀ px py, t.fb.pixel px py ≠ s.fb.pixel px py →
      (s.reg x).toNat % 64 ≤ px.val ∧ px.val < (s.reg x).toNat % 64 + 8 ∧
      (s.reg y).toNat % s.config.drawYMod.val ≤ py.val ∧
      py.val < (s.reg y).toNat % s.config.drawYMod.val + n.toNat) ∧
    (t.reg Reg.flag = 1 ↔ ∃ px py, s.fb.pixel px py = true ∧ t.fb.pixel px py = false) ∧
    ((s.reg x).toNat % 64 = 60 → ∀ px py, t.fb.pixel px py ≠ s.fb.pixel px py → 60 ≤ px.val)

/-- R205 (which the spec derives from R203 and R204): a second draw of the same sprite at the same place gives the frame before the
first draw back, and sets VF exactly when some touched pixel was 0 before the first. -/
def Obligations.DrawingTwiceRestores : Prop :=
  ∀ (x y : Reg) (n : Nibble) (s t u w : State), s.faultCause = .none → u.faultCause = .none →
    exec (.drw x y n) s = .next t → t.faultCause = .none →
    u.fb = t.fb → u.mem = s.mem → u.config = s.config → u.i = s.i → u.reg x = s.reg x → u.reg y = s.reg y →
    exec (.drw x y n) u = .next w →
    w.faultCause = .none ∧ w.fb = s.fb ∧
      (w.reg Reg.flag = 1 ↔ ∃ px py, DrawTouches s x y n px py ∧ s.fb.pixel px py = false)

/-! ### Timers and keys (44_timers_keys.md) -/

/-- R220 and R222 (encodings supplied from general knowledge, notes/assumptions/13.md): the words Fx07 and Fx15 read and
set the delay timer; in a step the value read is DT after this step's tick, and the value set is not decremented in the
same step. -/
def Obligations.DelayTimerReadAndSet : Prop :=
  (∀ (x : Reg) (s : State),
    decodeWord (0xF#4 ++ x ++ 0x07#8) = some (.ldVxDt x) ∧
    (∃ t, exec (.ldVxDt x) s = .next t ∧ t.reg x = s.dt ∧ t.pc = s.pc + 2 ∧ OnlyRegs [x] s t) ∧
    (Executes s (0xF#4 ++ x ++ 0x07#8) → ∃ u, step s = .next u ∧ u.faultCause = .none ∧
      (u.reg x).toNat = s.dt.toNat - s.tacc / s.config.tickUnits.val)) ∧
  ∀ (x : Reg) (s : State),
    decodeWord (0xF#4 ++ x ++ 0x15#8) = some (.ldDtVx x) ∧
    (∃ t, exec (.ldDtVx x) s = .next t ∧ t.dt = s.reg x ∧ t.pc = s.pc + 2 ∧
      t = { s with dt := t.dt, pc := t.pc } ∧ KeepsRegs [] s t ∧ KeepsMemory s t) ∧
    (Executes s (0xF#4 ++ x ++ 0x15#8) → ∃ u, step s = .next u ∧ u.faultCause = .none ∧ u.dt = s.reg x)

/-- R224 (should_buzz by the spec's decision D26): Fx18 sets the sound timer, and a non-zero value buzzes at the end of the same
step. -/
def Obligations.SoundTimerSet : Prop :=
  ∀ (x : Reg) (s : State),
    (∃ t, exec (.ldStVx x) s = .next t ∧ t.st = s.reg x ∧ t.pc = s.pc + 2 ∧
      t = { s with st := t.st, pc := t.pc } ∧ KeepsRegs [] s t ∧ KeepsMemory s t) ∧
    (Executes s (0xF#4 ++ x ++ 0x18#8) → ∃ u, step s = .next u ∧ u.st = s.reg x ∧
      (u.shouldBuzz = true ↔ s.reg x ≠ 0))

/-- R226, R228 with R225 (KEY_OOR by the spec's decision D32): SKP skips when the key V[x] names is pressed and SKNP when it is not;
an index of 16 or more names no key, or the key of its low nibble. -/
def Obligations.SkipsOnKey : Prop :=
  ∀ (x : Reg) (s : State) (p : Bool),
    ((s.reg x).toNat < 16 ∧ p = s.keys.getLsbD (s.reg x).toNat) ∨
    (16 ≤ (s.reg x).toNat ∧ s.config.keyOutOfRange = .lowNibble ∧ p = s.keys.getLsbD ((s.reg x).toNat % 16)) ∨
    (16 ≤ (s.reg x).toNat ∧ s.config.keyOutOfRange = .notPressed ∧ p = false) →
    (∃ t, exec (.skp x) s = .next t ∧ t.pc = (if p = true then s.pc + 4 else s.pc + 2) ∧ OnlyPc s t) ∧
    ∃ t, exec (.sknp x) s = .next t ∧ t.pc = (if p = false then s.pc + 4 else s.pc + 2) ∧ OnlyPc s t

/-- R230 (its encoding supplied from general knowledge, notes/assumptions/13.md): the word Fx0A makes no progress while
no key is pressed, and then AWAIT_KEY is 1 after the step, whose tick has run; with a key pressed it writes the
lowest-indexed one to V[x], advances, and AWAIT_KEY is 0. -/
def Obligations.WaitForKeyTakesLowest : Prop :=
  ∀ (x : Reg) (s : State),
    decodeWord (0xF#4 ++ x ++ 0x0A#8) = some (.ldVxK x) ∧
    (s.keys = 0 → exec (.ldVxK x) s = .next s) ∧
    (∀ k : Nat, k < 16 → s.keys.getLsbD k = true → (∀ j : Nat, j < k → s.keys.getLsbD j = false) →
      ∃ t, exec (.ldVxK x) s = .next t ∧ (t.reg x).toNat = k ∧ t.pc = s.pc + 2 ∧ OnlyRegs [x] s t) ∧
    (Executes s (0xF#4 ++ x ++ 0x0A#8) → ∃ u, step s = .next u ∧ u.faultCause = .none ∧
      (u.awaitKey = true ↔ s.keys = 0) ∧ (s.keys = 0 → u.pc = s.pc ∧ u.v = s.v ∧ u.i = s.i) ∧
      u.dt.toNat = s.dt.toNat - s.tacc / s.config.tickUnits.val ∧
      u.st.toNat = s.st.toNat - s.tacc / s.config.tickUnits.val)

/-- R232: with no key pressed, any number of steps at an Fx0A leaves PC unchanged; and the first step after keys become pressed
advances PC exactly once and yields the lowest-indexed pressed key. -/
def Obligations.WaitForKeyHoldsUntilPressed : Prop :=
  ∀ (x : Reg) (s : State), Executes s (0xF#4 ++ x ++ 0x0A#8) → s.keys = 0 →
    ∀ k : Nat, ∃ t, Host.Core.run Sys2Proof.core k s = .next t ∧ t.pc = s.pc ∧
      ∀ (m : Word) (j : Nat), j < 16 → m.getLsbD j = true → (∀ l : Nat, l < j → m.getLsbD l = false) →
        ∃ u, step { t with keys := m } = .next u ∧ u.pc = s.pc + 2 ∧ (u.reg x).toNat = j

/-! ### Rules over all instructions -/

/-- R62 (which the spec derives): only Fx33 and Fx55 change a byte of memory, and only from I upward within their length. -/
def Obligations.OnlyStoresChangeMemory : Prop :=
  ∀ (i : Instr) (s t : State) (a : Nat), exec i s = .next t → t.readByte a ≠ s.readByte a →
    s.i.toNat ≤ a ∧
      ((∃ x, i = .ldBVx x ∧ a < s.i.toNat + 3) ∨ ∃ x, i = .ldMemVx x ∧ a < s.i.toNat + x.toNat + 1)

/-- R22 (the spec's decisions D12, D13): what can change VF. -/
def Obligations.OnlyListedInstructionsChangeVf : Prop :=
  ∀ (i : Instr) (s t : State), exec i s = .next t → t.reg Reg.flag ≠ s.reg Reg.flag →
    (∃ x y, i = .addVxVy x y ∨ i = .subVxVy x y ∨ i = .subnVxVy x y ∨ i = .shrVxVy x y ∨ i = .shlVxVy x y) ∨
    (∃ x y n, i = .drw x y n) ∨
    (∃ kk, i = .ldVxKk Reg.flag kk ∨ i = .addVxKk Reg.flag kk ∨ i = .rnd Reg.flag kk) ∨
    (∃ y, i = .ldVxVy Reg.flag y ∨ i = .orVxVy Reg.flag y ∨ i = .andVxVy Reg.flag y ∨ i = .xorVxVy Reg.flag y) ∨
    i = .ldVxDt Reg.flag ∨ i = .ldVxK Reg.flag ∨ i = .ldVxMem Reg.flag

/-- R29, R31, R34, R35, R40, R42: which instructions can change I, the stack, SP, DT, ST and the framebuffer; and no instruction
changes TACC, KEY or LOADED. Four clauses are the MODEL's: the draw count is its own field (notes/assumptions/4.md, DESIGN
CHOICE), and so are the construction arguments in State (notes/assumptions/1.md, DESIGN CHOICE); AWAIT_KEY is left alone
because exec is stage 4 and stage 5 writes it (notes/assumptions/11.md, DESIGN CHOICE); and RET leaves the stack's storage
alone (notes/assumptions/15.md, DEDUCED). -/
def Obligations.SpecialRegisterWriters : Prop :=
  ∀ (i : Instr) (s t : State), exec i s = .next t →
    (t.i ≠ s.i → (∃ nnn, i = .ldI nnn) ∨ (∃ x, i = .addIVx x) ∨ (∃ x, i = .ldFVx x) ∨
      (s.config.loadStoreIncrement = true ∧ ∃ x, i = .ldMemVx x ∨ i = .ldVxMem x)) ∧
    (t.stack ≠ s.stack → ∃ nnn, i = .call nnn) ∧
    (t.sp ≠ s.sp → (∃ nnn, i = .call nnn) ∨ ∃ ign, i = .ret ign) ∧
    (t.dt ≠ s.dt → ∃ x, i = .ldDtVx x) ∧ (t.st ≠ s.st → ∃ x, i = .ldStVx x) ∧
    (t.fb ≠ s.fb → (∃ ign, i = .cls ign) ∨ ∃ x y n, i = .drw x y n) ∧
    (t.draws ≠ s.draws → ∃ x kk, i = .rnd x kk) ∧
    t.tacc = s.tacc ∧ t.keys = s.keys ∧ t.awaitKey = s.awaitKey ∧ t.loaded = s.loaded ∧ t.config = s.config

/-- R245 (which the spec derives from R26): from an even PC only JP, CALL, JP V0 and RET can make PC odd. -/
def Obligations.OnlyJumpsMakePcOdd : Prop :=
  ∀ (i : Instr) (s t : State), exec i s = .next t → s.pc.getLsbD 0 = false → t.pc.getLsbD 0 = true →
    (∃ nnn, i = .jp nnn ∨ i = .call nnn ∨ i = .jpV0 nnn) ∨ ∃ ign, i = .ret ign
end

