-- ==== Sys2Proof/Laws/Decode.lean ====
section
/-!
SUPPORT. The fields of each format's words (30_encoding.md R91, R92).
-/
namespace Sys2Proof

/-! ### Format XY -/

@[simp] theorem opOf_encodeXY (op : Nibble) (x y : Reg) (sub : Nibble) : opOf (encodeXY op x y sub) = op := by
  ext i hi
  simp only [opOf, encodeXY, BitVec.getElem_extractLsb', BitVec.getLsbD_append]
  rw [if_neg (by omega), if_neg (by omega), if_neg (by omega), ← BitVec.getLsbD_eq_getElem]
  congr 1
  omega

@[simp] theorem xOf_encodeXY (op : Nibble) (x y : Reg) (sub : Nibble) : xOf (encodeXY op x y sub) = x := by
  ext i hi
  simp only [xOf, encodeXY, BitVec.getElem_extractLsb', BitVec.getLsbD_append]
  rw [if_neg (by omega), if_neg (by omega), if_pos (by omega), ← BitVec.getLsbD_eq_getElem]
  congr 1
  omega

@[simp] theorem yOf_encodeXY (op : Nibble) (x y : Reg) (sub : Nibble) : yOf (encodeXY op x y sub) = y := by
  ext i hi
  simp only [yOf, encodeXY, BitVec.getElem_extractLsb', BitVec.getLsbD_append]
  rw [if_neg (by omega), if_pos (by omega), ← BitVec.getLsbD_eq_getElem]
  congr 1
  omega

@[simp] theorem nOf_encodeXY (op : Nibble) (x y : Reg) (sub : Nibble) : nOf (encodeXY op x y sub) = sub := by
  ext i hi
  simp only [nOf, encodeXY, BitVec.getElem_extractLsb', BitVec.getLsbD_append]
  rw [if_pos (by omega), ← BitVec.getLsbD_eq_getElem]
  congr 1
  omega

/-! ### Format XKK -/

@[simp] theorem opOf_encodeXKK (op : Nibble) (x : Reg) (kk : Byte) : opOf (encodeXKK op x kk) = op := by
  ext i hi
  simp only [opOf, encodeXKK, BitVec.getElem_extractLsb', BitVec.getLsbD_append]
  rw [if_neg (by omega), if_neg (by omega), ← BitVec.getLsbD_eq_getElem]
  congr 1
  omega

@[simp] theorem xOf_encodeXKK (op : Nibble) (x : Reg) (kk : Byte) : xOf (encodeXKK op x kk) = x := by
  ext i hi
  simp only [xOf, encodeXKK, BitVec.getElem_extractLsb', BitVec.getLsbD_append]
  rw [if_neg (by omega), if_pos (by omega), ← BitVec.getLsbD_eq_getElem]
  congr 1
  omega

@[simp] theorem kkOf_encodeXKK (op : Nibble) (x : Reg) (kk : Byte) : kkOf (encodeXKK op x kk) = kk := by
  ext i hi
  simp only [kkOf, encodeXKK, BitVec.getElem_extractLsb', BitVec.getLsbD_append]
  rw [if_pos (by omega), ← BitVec.getLsbD_eq_getElem]
  congr 1
  omega

/-! ### Format NNN -/

@[simp] theorem opOf_encodeNNN (op : Nibble) (nnn : Addr) : opOf (encodeNNN op nnn) = op := by
  ext i hi
  simp only [opOf, encodeNNN, BitVec.getElem_extractLsb', BitVec.getLsbD_append]
  rw [if_neg (by omega), ← BitVec.getLsbD_eq_getElem]
  congr 1
  omega

@[simp] theorem nnnOf_encodeNNN (op : Nibble) (nnn : Addr) : nnnOf (encodeNNN op nnn) = nnn := by
  ext i hi
  simp only [nnnOf, encodeNNN, BitVec.getElem_extractLsb', BitVec.getLsbD_append]
  rw [if_pos (by omega), ← BitVec.getLsbD_eq_getElem]
  congr 1
  omega

@[simp] theorem kkOf_encodeNNN (op : Nibble) (nnn : Addr) : kkOf (encodeNNN op nnn) = nnn.extractLsb' 0 8 := by
  ext i hi
  simp only [kkOf, encodeNNN, BitVec.getElem_extractLsb', BitVec.getLsbD_append]
  rw [if_pos (by omega)]

/-! ### A word is the encoding of its fields -/

theorem encodeXY_fields (w : Word) : encodeXY (opOf w) (xOf w) (yOf w) (nOf w) = w := by
  apply BitVec.eq_of_getLsbD_eq
  intro i hi
  simp only [opOf, xOf, yOf, nOf, encodeXY, BitVec.getLsbD_append, BitVec.getLsbD_extractLsb']
  split
  · simp [*]
  · split
    · simp only [*, decide_true, Bool.true_and]; congr 1; omega
    · split
      · simp only [*, decide_true, Bool.true_and]; congr 1; omega
      · rw [decide_eq_true (by omega), Bool.true_and]; congr 1; omega

theorem encodeXKK_fields (w : Word) : encodeXKK (opOf w) (xOf w) (kkOf w) = w := by
  apply BitVec.eq_of_getLsbD_eq
  intro i hi
  simp only [opOf, xOf, kkOf, encodeXKK, BitVec.getLsbD_append, BitVec.getLsbD_extractLsb']
  split
  · simp [*]
  · split
    · simp only [*, decide_true, Bool.true_and]; congr 1; omega
    · rw [decide_eq_true (by omega), Bool.true_and]; congr 1; omega

theorem encodeNNN_fields (w : Word) : encodeNNN (opOf w) (nnnOf w) = w := by
  apply BitVec.eq_of_getLsbD_eq
  intro i hi
  simp only [opOf, nnnOf, encodeNNN, BitVec.getLsbD_append, BitVec.getLsbD_extractLsb']
  split
  · simp [*]
  · rw [decide_eq_true (by omega), Bool.true_and]; congr 1; omega

/-- A word is its two bytes, the first the high byte (20_memory.md R65). -/
theorem wordOf_bytes (w : Word) : wordOf (w.extractLsb' 8 8) (w.extractLsb' 0 8) = w := by
  apply BitVec.eq_of_getLsbD_eq
  intro i hi
  simp only [wordOf, BitVec.getLsbD_append, BitVec.getLsbD_extractLsb']
  split
  · simp [*]
  · rw [decide_eq_true (by omega), Bool.true_and]; congr 1; omega

/-! ### Masking a word field by field -/

theorem encodeXY_and (op x y sub op' x' y' sub' : Nibble) :
    encodeXY op x y sub &&& encodeXY op' x' y' sub' =
      encodeXY (op &&& op') (x &&& x') (y &&& y') (sub &&& sub') := by
  apply BitVec.eq_of_getLsbD_eq
  intro i hi
  simp only [encodeXY, BitVec.getLsbD_and, BitVec.getLsbD_append]
  split
  · rfl
  · split
    · rfl
    · split <;> rfl

theorem encodeXKK_and (op x op' x' : Nibble) (kk kk' : Byte) :
    encodeXKK op x kk &&& encodeXKK op' x' kk' = encodeXKK (op &&& op') (x &&& x') (kk &&& kk') := by
  apply BitVec.eq_of_getLsbD_eq
  intro i hi
  simp only [encodeXKK, BitVec.getLsbD_and, BitVec.getLsbD_append]
  split
  · rfl
  · split <;> rfl

theorem encodeNNN_and (op op' : Nibble) (nnn nnn' : Addr) :
    encodeNNN op nnn &&& encodeNNN op' nnn' = encodeNNN (op &&& op') (nnn &&& nnn') := by
  apply BitVec.eq_of_getLsbD_eq
  intro i hi
  simp only [encodeNNN, BitVec.getLsbD_and, BitVec.getLsbD_append]
  split <;> rfl

end Sys2Proof
end

