-- ==== Sys2Proof/Laws/State.lean ====
section
/-!
SUPPORT. What each update of the state does to each field: one lemma a field, true by unfolding, so that no proof unfolds a
record update.
-/
namespace Sys2Proof.Machine

variable (s : State)

/-! ### setReg -/

@[simp] theorem State.setReg_v (x : Reg) (b : Byte) : (s.setReg x b).v = s.v.set x.toNat b x.isLt := rfl
@[simp] theorem State.setReg_pc (x : Reg) (b : Byte) : (s.setReg x b).pc = s.pc := rfl
@[simp] theorem State.setReg_i (x : Reg) (b : Byte) : (s.setReg x b).i = s.i := rfl
@[simp] theorem State.setReg_stack (x : Reg) (b : Byte) : (s.setReg x b).stack = s.stack := rfl
@[simp] theorem State.setReg_sp (x : Reg) (b : Byte) : (s.setReg x b).sp = s.sp := rfl
@[simp] theorem State.setReg_dt (x : Reg) (b : Byte) : (s.setReg x b).dt = s.dt := rfl
@[simp] theorem State.setReg_st (x : Reg) (b : Byte) : (s.setReg x b).st = s.st := rfl
@[simp] theorem State.setReg_tacc (x : Reg) (b : Byte) : (s.setReg x b).tacc = s.tacc := rfl
@[simp] theorem State.setReg_mem (x : Reg) (b : Byte) : (s.setReg x b).mem = s.mem := rfl
@[simp] theorem State.setReg_fb (x : Reg) (b : Byte) : (s.setReg x b).fb = s.fb := rfl
@[simp] theorem State.setReg_keys (x : Reg) (b : Byte) : (s.setReg x b).keys = s.keys := rfl
@[simp] theorem State.setReg_awaitKey (x : Reg) (b : Byte) : (s.setReg x b).awaitKey = s.awaitKey := rfl
@[simp] theorem State.setReg_displayUpdated (x : Reg) (b : Byte) : (s.setReg x b).displayUpdated = s.displayUpdated := rfl
@[simp] theorem State.setReg_shouldBuzz (x : Reg) (b : Byte) : (s.setReg x b).shouldBuzz = s.shouldBuzz := rfl
@[simp] theorem State.setReg_faultCause (x : Reg) (b : Byte) : (s.setReg x b).faultCause = s.faultCause := rfl
@[simp] theorem State.setReg_faultPc (x : Reg) (b : Byte) : (s.setReg x b).faultPc = s.faultPc := rfl
@[simp] theorem State.setReg_faultAddr (x : Reg) (b : Byte) : (s.setReg x b).faultAddr = s.faultAddr := rfl
@[simp] theorem State.setReg_loaded (x : Reg) (b : Byte) : (s.setReg x b).loaded = s.loaded := rfl
@[simp] theorem State.setReg_draws (x : Reg) (b : Byte) : (s.setReg x b).draws = s.draws := rfl
@[simp] theorem State.setReg_config (x : Reg) (b : Byte) : (s.setReg x b).config = s.config := rfl

/-! ### setI -/

@[simp] theorem State.setI_v (w : Word) : (s.setI w).v = s.v := rfl
@[simp] theorem State.setI_pc (w : Word) : (s.setI w).pc = s.pc := rfl
@[simp] theorem State.setI_i (w : Word) : (s.setI w).i = w := rfl
@[simp] theorem State.setI_stack (w : Word) : (s.setI w).stack = s.stack := rfl
@[simp] theorem State.setI_sp (w : Word) : (s.setI w).sp = s.sp := rfl
@[simp] theorem State.setI_dt (w : Word) : (s.setI w).dt = s.dt := rfl
@[simp] theorem State.setI_st (w : Word) : (s.setI w).st = s.st := rfl
@[simp] theorem State.setI_tacc (w : Word) : (s.setI w).tacc = s.tacc := rfl
@[simp] theorem State.setI_mem (w : Word) : (s.setI w).mem = s.mem := rfl
@[simp] theorem State.setI_fb (w : Word) : (s.setI w).fb = s.fb := rfl
@[simp] theorem State.setI_keys (w : Word) : (s.setI w).keys = s.keys := rfl
@[simp] theorem State.setI_awaitKey (w : Word) : (s.setI w).awaitKey = s.awaitKey := rfl
@[simp] theorem State.setI_displayUpdated (w : Word) : (s.setI w).displayUpdated = s.displayUpdated := rfl
@[simp] theorem State.setI_shouldBuzz (w : Word) : (s.setI w).shouldBuzz = s.shouldBuzz := rfl
@[simp] theorem State.setI_faultCause (w : Word) : (s.setI w).faultCause = s.faultCause := rfl
@[simp] theorem State.setI_faultPc (w : Word) : (s.setI w).faultPc = s.faultPc := rfl
@[simp] theorem State.setI_faultAddr (w : Word) : (s.setI w).faultAddr = s.faultAddr := rfl
@[simp] theorem State.setI_loaded (w : Word) : (s.setI w).loaded = s.loaded := rfl
@[simp] theorem State.setI_draws (w : Word) : (s.setI w).draws = s.draws := rfl
@[simp] theorem State.setI_config (w : Word) : (s.setI w).config = s.config := rfl

/-! ### setPc -/

@[simp] theorem State.setPc_v (w : Word) : (s.setPc w).v = s.v := rfl
@[simp] theorem State.setPc_pc (w : Word) : (s.setPc w).pc = w := rfl
@[simp] theorem State.setPc_i (w : Word) : (s.setPc w).i = s.i := rfl
@[simp] theorem State.setPc_stack (w : Word) : (s.setPc w).stack = s.stack := rfl
@[simp] theorem State.setPc_sp (w : Word) : (s.setPc w).sp = s.sp := rfl
@[simp] theorem State.setPc_dt (w : Word) : (s.setPc w).dt = s.dt := rfl
@[simp] theorem State.setPc_st (w : Word) : (s.setPc w).st = s.st := rfl
@[simp] theorem State.setPc_tacc (w : Word) : (s.setPc w).tacc = s.tacc := rfl
@[simp] theorem State.setPc_mem (w : Word) : (s.setPc w).mem = s.mem := rfl
@[simp] theorem State.setPc_fb (w : Word) : (s.setPc w).fb = s.fb := rfl
@[simp] theorem State.setPc_keys (w : Word) : (s.setPc w).keys = s.keys := rfl
@[simp] theorem State.setPc_awaitKey (w : Word) : (s.setPc w).awaitKey = s.awaitKey := rfl
@[simp] theorem State.setPc_displayUpdated (w : Word) : (s.setPc w).displayUpdated = s.displayUpdated := rfl
@[simp] theorem State.setPc_shouldBuzz (w : Word) : (s.setPc w).shouldBuzz = s.shouldBuzz := rfl
@[simp] theorem State.setPc_faultCause (w : Word) : (s.setPc w).faultCause = s.faultCause := rfl
@[simp] theorem State.setPc_faultPc (w : Word) : (s.setPc w).faultPc = s.faultPc := rfl
@[simp] theorem State.setPc_faultAddr (w : Word) : (s.setPc w).faultAddr = s.faultAddr := rfl
@[simp] theorem State.setPc_loaded (w : Word) : (s.setPc w).loaded = s.loaded := rfl
@[simp] theorem State.setPc_draws (w : Word) : (s.setPc w).draws = s.draws := rfl
@[simp] theorem State.setPc_config (w : Word) : (s.setPc w).config = s.config := rfl

/-! ### advance -/

@[simp] theorem State.advance_v : (s.advance).v = s.v := rfl
@[simp] theorem State.advance_pc : (s.advance).pc = s.pc + 2 := rfl
@[simp] theorem State.advance_i : (s.advance).i = s.i := rfl
@[simp] theorem State.advance_stack : (s.advance).stack = s.stack := rfl
@[simp] theorem State.advance_sp : (s.advance).sp = s.sp := rfl
@[simp] theorem State.advance_dt : (s.advance).dt = s.dt := rfl
@[simp] theorem State.advance_st : (s.advance).st = s.st := rfl
@[simp] theorem State.advance_tacc : (s.advance).tacc = s.tacc := rfl
@[simp] theorem State.advance_mem : (s.advance).mem = s.mem := rfl
@[simp] theorem State.advance_fb : (s.advance).fb = s.fb := rfl
@[simp] theorem State.advance_keys : (s.advance).keys = s.keys := rfl
@[simp] theorem State.advance_awaitKey : (s.advance).awaitKey = s.awaitKey := rfl
@[simp] theorem State.advance_displayUpdated : (s.advance).displayUpdated = s.displayUpdated := rfl
@[simp] theorem State.advance_shouldBuzz : (s.advance).shouldBuzz = s.shouldBuzz := rfl
@[simp] theorem State.advance_faultCause : (s.advance).faultCause = s.faultCause := rfl
@[simp] theorem State.advance_faultPc : (s.advance).faultPc = s.faultPc := rfl
@[simp] theorem State.advance_faultAddr : (s.advance).faultAddr = s.faultAddr := rfl
@[simp] theorem State.advance_loaded : (s.advance).loaded = s.loaded := rfl
@[simp] theorem State.advance_draws : (s.advance).draws = s.draws := rfl
@[simp] theorem State.advance_config : (s.advance).config = s.config := rfl

/-! ### skipIf -/

@[simp] theorem State.skipIf_v (b : Bool) : (s.skipIf b).v = s.v := rfl
@[simp] theorem State.skipIf_pc (b : Bool) : (s.skipIf b).pc = if b then s.pc + 4 else s.pc + 2 := rfl
@[simp] theorem State.skipIf_i (b : Bool) : (s.skipIf b).i = s.i := rfl
@[simp] theorem State.skipIf_stack (b : Bool) : (s.skipIf b).stack = s.stack := rfl
@[simp] theorem State.skipIf_sp (b : Bool) : (s.skipIf b).sp = s.sp := rfl
@[simp] theorem State.skipIf_dt (b : Bool) : (s.skipIf b).dt = s.dt := rfl
@[simp] theorem State.skipIf_st (b : Bool) : (s.skipIf b).st = s.st := rfl
@[simp] theorem State.skipIf_tacc (b : Bool) : (s.skipIf b).tacc = s.tacc := rfl
@[simp] theorem State.skipIf_mem (b : Bool) : (s.skipIf b).mem = s.mem := rfl
@[simp] theorem State.skipIf_fb (b : Bool) : (s.skipIf b).fb = s.fb := rfl
@[simp] theorem State.skipIf_keys (b : Bool) : (s.skipIf b).keys = s.keys := rfl
@[simp] theorem State.skipIf_awaitKey (b : Bool) : (s.skipIf b).awaitKey = s.awaitKey := rfl
@[simp] theorem State.skipIf_displayUpdated (b : Bool) : (s.skipIf b).displayUpdated = s.displayUpdated := rfl
@[simp] theorem State.skipIf_shouldBuzz (b : Bool) : (s.skipIf b).shouldBuzz = s.shouldBuzz := rfl
@[simp] theorem State.skipIf_faultCause (b : Bool) : (s.skipIf b).faultCause = s.faultCause := rfl
@[simp] theorem State.skipIf_faultPc (b : Bool) : (s.skipIf b).faultPc = s.faultPc := rfl
@[simp] theorem State.skipIf_faultAddr (b : Bool) : (s.skipIf b).faultAddr = s.faultAddr := rfl
@[simp] theorem State.skipIf_loaded (b : Bool) : (s.skipIf b).loaded = s.loaded := rfl
@[simp] theorem State.skipIf_draws (b : Bool) : (s.skipIf b).draws = s.draws := rfl
@[simp] theorem State.skipIf_config (b : Bool) : (s.skipIf b).config = s.config := rfl

/-! ### setDt -/

@[simp] theorem State.setDt_v (b : Byte) : (s.setDt b).v = s.v := rfl
@[simp] theorem State.setDt_pc (b : Byte) : (s.setDt b).pc = s.pc := rfl
@[simp] theorem State.setDt_i (b : Byte) : (s.setDt b).i = s.i := rfl
@[simp] theorem State.setDt_stack (b : Byte) : (s.setDt b).stack = s.stack := rfl
@[simp] theorem State.setDt_sp (b : Byte) : (s.setDt b).sp = s.sp := rfl
@[simp] theorem State.setDt_dt (b : Byte) : (s.setDt b).dt = b := rfl
@[simp] theorem State.setDt_st (b : Byte) : (s.setDt b).st = s.st := rfl
@[simp] theorem State.setDt_tacc (b : Byte) : (s.setDt b).tacc = s.tacc := rfl
@[simp] theorem State.setDt_mem (b : Byte) : (s.setDt b).mem = s.mem := rfl
@[simp] theorem State.setDt_fb (b : Byte) : (s.setDt b).fb = s.fb := rfl
@[simp] theorem State.setDt_keys (b : Byte) : (s.setDt b).keys = s.keys := rfl
@[simp] theorem State.setDt_awaitKey (b : Byte) : (s.setDt b).awaitKey = s.awaitKey := rfl
@[simp] theorem State.setDt_displayUpdated (b : Byte) : (s.setDt b).displayUpdated = s.displayUpdated := rfl
@[simp] theorem State.setDt_shouldBuzz (b : Byte) : (s.setDt b).shouldBuzz = s.shouldBuzz := rfl
@[simp] theorem State.setDt_faultCause (b : Byte) : (s.setDt b).faultCause = s.faultCause := rfl
@[simp] theorem State.setDt_faultPc (b : Byte) : (s.setDt b).faultPc = s.faultPc := rfl
@[simp] theorem State.setDt_faultAddr (b : Byte) : (s.setDt b).faultAddr = s.faultAddr := rfl
@[simp] theorem State.setDt_loaded (b : Byte) : (s.setDt b).loaded = s.loaded := rfl
@[simp] theorem State.setDt_draws (b : Byte) : (s.setDt b).draws = s.draws := rfl
@[simp] theorem State.setDt_config (b : Byte) : (s.setDt b).config = s.config := rfl

/-! ### setSt -/

@[simp] theorem State.setSt_v (b : Byte) : (s.setSt b).v = s.v := rfl
@[simp] theorem State.setSt_pc (b : Byte) : (s.setSt b).pc = s.pc := rfl
@[simp] theorem State.setSt_i (b : Byte) : (s.setSt b).i = s.i := rfl
@[simp] theorem State.setSt_stack (b : Byte) : (s.setSt b).stack = s.stack := rfl
@[simp] theorem State.setSt_sp (b : Byte) : (s.setSt b).sp = s.sp := rfl
@[simp] theorem State.setSt_dt (b : Byte) : (s.setSt b).dt = s.dt := rfl
@[simp] theorem State.setSt_st (b : Byte) : (s.setSt b).st = b := rfl
@[simp] theorem State.setSt_tacc (b : Byte) : (s.setSt b).tacc = s.tacc := rfl
@[simp] theorem State.setSt_mem (b : Byte) : (s.setSt b).mem = s.mem := rfl
@[simp] theorem State.setSt_fb (b : Byte) : (s.setSt b).fb = s.fb := rfl
@[simp] theorem State.setSt_keys (b : Byte) : (s.setSt b).keys = s.keys := rfl
@[simp] theorem State.setSt_awaitKey (b : Byte) : (s.setSt b).awaitKey = s.awaitKey := rfl
@[simp] theorem State.setSt_displayUpdated (b : Byte) : (s.setSt b).displayUpdated = s.displayUpdated := rfl
@[simp] theorem State.setSt_shouldBuzz (b : Byte) : (s.setSt b).shouldBuzz = s.shouldBuzz := rfl
@[simp] theorem State.setSt_faultCause (b : Byte) : (s.setSt b).faultCause = s.faultCause := rfl
@[simp] theorem State.setSt_faultPc (b : Byte) : (s.setSt b).faultPc = s.faultPc := rfl
@[simp] theorem State.setSt_faultAddr (b : Byte) : (s.setSt b).faultAddr = s.faultAddr := rfl
@[simp] theorem State.setSt_loaded (b : Byte) : (s.setSt b).loaded = s.loaded := rfl
@[simp] theorem State.setSt_draws (b : Byte) : (s.setSt b).draws = s.draws := rfl
@[simp] theorem State.setSt_config (b : Byte) : (s.setSt b).config = s.config := rfl

/-! ### countDraw -/

@[simp] theorem State.countDraw_v : (s.countDraw).v = s.v := rfl
@[simp] theorem State.countDraw_pc : (s.countDraw).pc = s.pc := rfl
@[simp] theorem State.countDraw_i : (s.countDraw).i = s.i := rfl
@[simp] theorem State.countDraw_stack : (s.countDraw).stack = s.stack := rfl
@[simp] theorem State.countDraw_sp : (s.countDraw).sp = s.sp := rfl
@[simp] theorem State.countDraw_dt : (s.countDraw).dt = s.dt := rfl
@[simp] theorem State.countDraw_st : (s.countDraw).st = s.st := rfl
@[simp] theorem State.countDraw_tacc : (s.countDraw).tacc = s.tacc := rfl
@[simp] theorem State.countDraw_mem : (s.countDraw).mem = s.mem := rfl
@[simp] theorem State.countDraw_fb : (s.countDraw).fb = s.fb := rfl
@[simp] theorem State.countDraw_keys : (s.countDraw).keys = s.keys := rfl
@[simp] theorem State.countDraw_awaitKey : (s.countDraw).awaitKey = s.awaitKey := rfl
@[simp] theorem State.countDraw_displayUpdated : (s.countDraw).displayUpdated = s.displayUpdated := rfl
@[simp] theorem State.countDraw_shouldBuzz : (s.countDraw).shouldBuzz = s.shouldBuzz := rfl
@[simp] theorem State.countDraw_faultCause : (s.countDraw).faultCause = s.faultCause := rfl
@[simp] theorem State.countDraw_faultPc : (s.countDraw).faultPc = s.faultPc := rfl
@[simp] theorem State.countDraw_faultAddr : (s.countDraw).faultAddr = s.faultAddr := rfl
@[simp] theorem State.countDraw_loaded : (s.countDraw).loaded = s.loaded := rfl
@[simp] theorem State.countDraw_draws : (s.countDraw).draws = s.draws + 1 := rfl
@[simp] theorem State.countDraw_config : (s.countDraw).config = s.config := rfl

/-! ### setFrame -/

@[simp] theorem State.setFrame_v (f : FrameBuffer) : (s.setFrame f).v = s.v := rfl
@[simp] theorem State.setFrame_pc (f : FrameBuffer) : (s.setFrame f).pc = s.pc := rfl
@[simp] theorem State.setFrame_i (f : FrameBuffer) : (s.setFrame f).i = s.i := rfl
@[simp] theorem State.setFrame_stack (f : FrameBuffer) : (s.setFrame f).stack = s.stack := rfl
@[simp] theorem State.setFrame_sp (f : FrameBuffer) : (s.setFrame f).sp = s.sp := rfl
@[simp] theorem State.setFrame_dt (f : FrameBuffer) : (s.setFrame f).dt = s.dt := rfl
@[simp] theorem State.setFrame_st (f : FrameBuffer) : (s.setFrame f).st = s.st := rfl
@[simp] theorem State.setFrame_tacc (f : FrameBuffer) : (s.setFrame f).tacc = s.tacc := rfl
@[simp] theorem State.setFrame_mem (f : FrameBuffer) : (s.setFrame f).mem = s.mem := rfl
@[simp] theorem State.setFrame_fb (f : FrameBuffer) : (s.setFrame f).fb = f := rfl
@[simp] theorem State.setFrame_keys (f : FrameBuffer) : (s.setFrame f).keys = s.keys := rfl
@[simp] theorem State.setFrame_awaitKey (f : FrameBuffer) : (s.setFrame f).awaitKey = s.awaitKey := rfl
@[simp] theorem State.setFrame_displayUpdated (f : FrameBuffer) : (s.setFrame f).displayUpdated = true := rfl
@[simp] theorem State.setFrame_shouldBuzz (f : FrameBuffer) : (s.setFrame f).shouldBuzz = s.shouldBuzz := rfl
@[simp] theorem State.setFrame_faultCause (f : FrameBuffer) : (s.setFrame f).faultCause = s.faultCause := rfl
@[simp] theorem State.setFrame_faultPc (f : FrameBuffer) : (s.setFrame f).faultPc = s.faultPc := rfl
@[simp] theorem State.setFrame_faultAddr (f : FrameBuffer) : (s.setFrame f).faultAddr = s.faultAddr := rfl
@[simp] theorem State.setFrame_loaded (f : FrameBuffer) : (s.setFrame f).loaded = s.loaded := rfl
@[simp] theorem State.setFrame_draws (f : FrameBuffer) : (s.setFrame f).draws = s.draws := rfl
@[simp] theorem State.setFrame_config (f : FrameBuffer) : (s.setFrame f).config = s.config := rfl

/-! ### memWrite -/

@[simp] theorem State.memWrite_v (a : Nat) (bs : List Byte) : (s.memWrite a bs).v = s.v := rfl
@[simp] theorem State.memWrite_pc (a : Nat) (bs : List Byte) : (s.memWrite a bs).pc = s.pc := rfl
@[simp] theorem State.memWrite_i (a : Nat) (bs : List Byte) : (s.memWrite a bs).i = s.i := rfl
@[simp] theorem State.memWrite_stack (a : Nat) (bs : List Byte) : (s.memWrite a bs).stack = s.stack := rfl
@[simp] theorem State.memWrite_sp (a : Nat) (bs : List Byte) : (s.memWrite a bs).sp = s.sp := rfl
@[simp] theorem State.memWrite_dt (a : Nat) (bs : List Byte) : (s.memWrite a bs).dt = s.dt := rfl
@[simp] theorem State.memWrite_st (a : Nat) (bs : List Byte) : (s.memWrite a bs).st = s.st := rfl
@[simp] theorem State.memWrite_tacc (a : Nat) (bs : List Byte) : (s.memWrite a bs).tacc = s.tacc := rfl
@[simp] theorem State.memWrite_mem (a : Nat) (bs : List Byte) : (s.memWrite a bs).mem = Memory.writeBytes s.config a bs s.mem := rfl
@[simp] theorem State.memWrite_fb (a : Nat) (bs : List Byte) : (s.memWrite a bs).fb = s.fb := rfl
@[simp] theorem State.memWrite_keys (a : Nat) (bs : List Byte) : (s.memWrite a bs).keys = s.keys := rfl
@[simp] theorem State.memWrite_awaitKey (a : Nat) (bs : List Byte) : (s.memWrite a bs).awaitKey = s.awaitKey := rfl
@[simp] theorem State.memWrite_displayUpdated (a : Nat) (bs : List Byte) : (s.memWrite a bs).displayUpdated = s.displayUpdated := rfl
@[simp] theorem State.memWrite_shouldBuzz (a : Nat) (bs : List Byte) : (s.memWrite a bs).shouldBuzz = s.shouldBuzz := rfl
@[simp] theorem State.memWrite_faultCause (a : Nat) (bs : List Byte) : (s.memWrite a bs).faultCause = s.faultCause := rfl
@[simp] theorem State.memWrite_faultPc (a : Nat) (bs : List Byte) : (s.memWrite a bs).faultPc = s.faultPc := rfl
@[simp] theorem State.memWrite_faultAddr (a : Nat) (bs : List Byte) : (s.memWrite a bs).faultAddr = s.faultAddr := rfl
@[simp] theorem State.memWrite_loaded (a : Nat) (bs : List Byte) : (s.memWrite a bs).loaded = s.loaded := rfl
@[simp] theorem State.memWrite_draws (a : Nat) (bs : List Byte) : (s.memWrite a bs).draws = s.draws := rfl
@[simp] theorem State.memWrite_config (a : Nat) (bs : List Byte) : (s.memWrite a bs).config = s.config := rfl

/-! ### raise -/

@[simp] theorem State.raise_v (c : FaultCause) (a : Word) : (s.raise c a).v = s.v := rfl
@[simp] theorem State.raise_pc (c : FaultCause) (a : Word) : (s.raise c a).pc = s.pc := rfl
@[simp] theorem State.raise_i (c : FaultCause) (a : Word) : (s.raise c a).i = s.i := rfl
@[simp] theorem State.raise_stack (c : FaultCause) (a : Word) : (s.raise c a).stack = s.stack := rfl
@[simp] theorem State.raise_sp (c : FaultCause) (a : Word) : (s.raise c a).sp = s.sp := rfl
@[simp] theorem State.raise_dt (c : FaultCause) (a : Word) : (s.raise c a).dt = s.dt := rfl
@[simp] theorem State.raise_st (c : FaultCause) (a : Word) : (s.raise c a).st = s.st := rfl
@[simp] theorem State.raise_tacc (c : FaultCause) (a : Word) : (s.raise c a).tacc = s.tacc := rfl
@[simp] theorem State.raise_mem (c : FaultCause) (a : Word) : (s.raise c a).mem = s.mem := rfl
@[simp] theorem State.raise_fb (c : FaultCause) (a : Word) : (s.raise c a).fb = s.fb := rfl
@[simp] theorem State.raise_keys (c : FaultCause) (a : Word) : (s.raise c a).keys = s.keys := rfl
@[simp] theorem State.raise_awaitKey (c : FaultCause) (a : Word) : (s.raise c a).awaitKey = s.awaitKey := rfl
@[simp] theorem State.raise_displayUpdated (c : FaultCause) (a : Word) : (s.raise c a).displayUpdated = false := rfl
@[simp] theorem State.raise_shouldBuzz (c : FaultCause) (a : Word) : (s.raise c a).shouldBuzz = false := rfl
@[simp] theorem State.raise_faultCause (c : FaultCause) (a : Word) : (s.raise c a).faultCause = c := rfl
@[simp] theorem State.raise_faultPc (c : FaultCause) (a : Word) : (s.raise c a).faultPc = s.pc := rfl
@[simp] theorem State.raise_faultAddr (c : FaultCause) (a : Word) : (s.raise c a).faultAddr = a := rfl
@[simp] theorem State.raise_loaded (c : FaultCause) (a : Word) : (s.raise c a).loaded = s.loaded := rfl
@[simp] theorem State.raise_draws (c : FaultCause) (a : Word) : (s.raise c a).draws = s.draws := rfl
@[simp] theorem State.raise_config (c : FaultCause) (a : Word) : (s.raise c a).config = s.config := rfl

/-! ### clearOutputs -/

@[simp] theorem State.clearOutputs_v : (s.clearOutputs).v = s.v := rfl
@[simp] theorem State.clearOutputs_pc : (s.clearOutputs).pc = s.pc := rfl
@[simp] theorem State.clearOutputs_i : (s.clearOutputs).i = s.i := rfl
@[simp] theorem State.clearOutputs_stack : (s.clearOutputs).stack = s.stack := rfl
@[simp] theorem State.clearOutputs_sp : (s.clearOutputs).sp = s.sp := rfl
@[simp] theorem State.clearOutputs_dt : (s.clearOutputs).dt = s.dt := rfl
@[simp] theorem State.clearOutputs_st : (s.clearOutputs).st = s.st := rfl
@[simp] theorem State.clearOutputs_tacc : (s.clearOutputs).tacc = s.tacc := rfl
@[simp] theorem State.clearOutputs_mem : (s.clearOutputs).mem = s.mem := rfl
@[simp] theorem State.clearOutputs_fb : (s.clearOutputs).fb = s.fb := rfl
@[simp] theorem State.clearOutputs_keys : (s.clearOutputs).keys = s.keys := rfl
@[simp] theorem State.clearOutputs_awaitKey : (s.clearOutputs).awaitKey = s.awaitKey := rfl
@[simp] theorem State.clearOutputs_displayUpdated : (s.clearOutputs).displayUpdated = false := rfl
@[simp] theorem State.clearOutputs_shouldBuzz : (s.clearOutputs).shouldBuzz = false := rfl
@[simp] theorem State.clearOutputs_faultCause : (s.clearOutputs).faultCause = s.faultCause := rfl
@[simp] theorem State.clearOutputs_faultPc : (s.clearOutputs).faultPc = s.faultPc := rfl
@[simp] theorem State.clearOutputs_faultAddr : (s.clearOutputs).faultAddr = s.faultAddr := rfl
@[simp] theorem State.clearOutputs_loaded : (s.clearOutputs).loaded = s.loaded := rfl
@[simp] theorem State.clearOutputs_draws : (s.clearOutputs).draws = s.draws := rfl
@[simp] theorem State.clearOutputs_config : (s.clearOutputs).config = s.config := rfl

/-! ### tick -/

@[simp] theorem State.tick_v : (s.tick).v = s.v := rfl
@[simp] theorem State.tick_pc : (s.tick).pc = s.pc := rfl
@[simp] theorem State.tick_i : (s.tick).i = s.i := rfl
@[simp] theorem State.tick_stack : (s.tick).stack = s.stack := rfl
@[simp] theorem State.tick_sp : (s.tick).sp = s.sp := rfl
@[simp] theorem State.tick_dt : (s.tick).dt = timerAfter s.dt s.ticks := rfl
@[simp] theorem State.tick_st : (s.tick).st = timerAfter s.st s.ticks := rfl
@[simp] theorem State.tick_tacc : (s.tick).tacc = s.tacc % s.config.tickUnits.val := rfl
@[simp] theorem State.tick_mem : (s.tick).mem = s.mem := rfl
@[simp] theorem State.tick_fb : (s.tick).fb = s.fb := rfl
@[simp] theorem State.tick_keys : (s.tick).keys = s.keys := rfl
@[simp] theorem State.tick_awaitKey : (s.tick).awaitKey = s.awaitKey := rfl
@[simp] theorem State.tick_displayUpdated : (s.tick).displayUpdated = s.displayUpdated := rfl
@[simp] theorem State.tick_shouldBuzz : (s.tick).shouldBuzz = s.shouldBuzz := rfl
@[simp] theorem State.tick_faultCause : (s.tick).faultCause = s.faultCause := rfl
@[simp] theorem State.tick_faultPc : (s.tick).faultPc = s.faultPc := rfl
@[simp] theorem State.tick_faultAddr : (s.tick).faultAddr = s.faultAddr := rfl
@[simp] theorem State.tick_loaded : (s.tick).loaded = s.loaded := rfl
@[simp] theorem State.tick_draws : (s.tick).draws = s.draws := rfl
@[simp] theorem State.tick_config : (s.tick).config = s.config := rfl

/-! ### endStep -/

@[simp] theorem State.endStep_v (b : Bool) : (s.endStep b).v = s.v := rfl
@[simp] theorem State.endStep_pc (b : Bool) : (s.endStep b).pc = s.pc := rfl
@[simp] theorem State.endStep_i (b : Bool) : (s.endStep b).i = s.i := rfl
@[simp] theorem State.endStep_stack (b : Bool) : (s.endStep b).stack = s.stack := rfl
@[simp] theorem State.endStep_sp (b : Bool) : (s.endStep b).sp = s.sp := rfl
@[simp] theorem State.endStep_dt (b : Bool) : (s.endStep b).dt = s.dt := rfl
@[simp] theorem State.endStep_st (b : Bool) : (s.endStep b).st = s.st := rfl
@[simp] theorem State.endStep_tacc (b : Bool) : (s.endStep b).tacc = s.tacc := rfl
@[simp] theorem State.endStep_mem (b : Bool) : (s.endStep b).mem = s.mem := rfl
@[simp] theorem State.endStep_fb (b : Bool) : (s.endStep b).fb = s.fb := rfl
@[simp] theorem State.endStep_keys (b : Bool) : (s.endStep b).keys = s.keys := rfl
@[simp] theorem State.endStep_awaitKey (b : Bool) : (s.endStep b).awaitKey = b := rfl
@[simp] theorem State.endStep_displayUpdated (b : Bool) : (s.endStep b).displayUpdated = s.displayUpdated := rfl
@[simp] theorem State.endStep_shouldBuzz (b : Bool) : (s.endStep b).shouldBuzz = (s.st != 0) := rfl
@[simp] theorem State.endStep_faultCause (b : Bool) : (s.endStep b).faultCause = s.faultCause := rfl
@[simp] theorem State.endStep_faultPc (b : Bool) : (s.endStep b).faultPc = s.faultPc := rfl
@[simp] theorem State.endStep_faultAddr (b : Bool) : (s.endStep b).faultAddr = s.faultAddr := rfl
@[simp] theorem State.endStep_loaded (b : Bool) : (s.endStep b).loaded = s.loaded := rfl
@[simp] theorem State.endStep_draws (b : Bool) : (s.endStep b).draws = s.draws := rfl
@[simp] theorem State.endStep_config (b : Bool) : (s.endStep b).config = s.config := rfl

/-! ### Registers through the updates that write none -/

@[simp] theorem State.setI_reg (w : Word) (r : Reg) : (s.setI w).reg r = s.reg r := rfl
@[simp] theorem State.setPc_reg (w : Word) (r : Reg) : (s.setPc w).reg r = s.reg r := rfl
@[simp] theorem State.advance_reg (r : Reg) : (s.advance).reg r = s.reg r := rfl
@[simp] theorem State.skipIf_reg (b : Bool) (r : Reg) : (s.skipIf b).reg r = s.reg r := rfl
@[simp] theorem State.setDt_reg (b : Byte) (r : Reg) : (s.setDt b).reg r = s.reg r := rfl
@[simp] theorem State.setSt_reg (b : Byte) (r : Reg) : (s.setSt b).reg r = s.reg r := rfl
@[simp] theorem State.countDraw_reg (r : Reg) : (s.countDraw).reg r = s.reg r := rfl
@[simp] theorem State.setFrame_reg (f : FrameBuffer) (r : Reg) : (s.setFrame f).reg r = s.reg r := rfl
@[simp] theorem State.memWrite_reg (a : Nat) (bs : List Byte) (r : Reg) : (s.memWrite a bs).reg r = s.reg r := rfl
@[simp] theorem State.raise_reg (c : FaultCause) (a : Word) (r : Reg) : (s.raise c a).reg r = s.reg r := rfl
@[simp] theorem State.clearOutputs_reg (r : Reg) : (s.clearOutputs).reg r = s.reg r := rfl
@[simp] theorem State.tick_reg (r : Reg) : (s.tick).reg r = s.reg r := rfl
@[simp] theorem State.endStep_reg (b : Bool) (r : Reg) : (s.endStep b).reg r = s.reg r := rfl

/-! ### The reset state and the host's transactions -/

@[simp] theorem State.construct_config (c : Config) : (State.construct c).config = c := rfl
@[simp] theorem State.construct_mem (c : Config) : (State.construct c).mem = [] := rfl
@[simp] theorem State.construct_faultCause (c : Config) : (State.construct c).faultCause = .none := rfl

end Sys2Proof.Machine
end

