-- ==== Sys2Proof/Laws/Memory.lean ====
section
/-!
SUPPORT. Memory: a read after a write, bytes elsewhere, and the canonical form every operation keeps.
-/
namespace Sys2Proof.Machine

variable {c : Config}

/-! ### One byte -/

theorem Memory.byteAt_erase_self (a : Nat) (m : Memory) :
    Memory.byteAt c a (m.erase a) = resetByte c a := by
  induction m with
  | nil => rfl
  | cons x m ih =>
    rw [Memory.erase]
    split
    · exact ih
    · rw [Memory.byteAt, if_neg ‹_›, ih]

theorem Memory.byteAt_erase_ne {a a' : Nat} (h : a ≠ a') (m : Memory) :
    Memory.byteAt c a (m.erase a') = Memory.byteAt c a m := by
  induction m with
  | nil => rfl
  | cons x m ih =>
    rw [Memory.erase]
    split
    · rw [ih, Memory.byteAt, if_neg (by omega)]
    · simp only [Memory.byteAt, ih]

theorem Memory.not_mem_erase {a : Nat} (m : Memory) : ∀ x ∈ m.erase a, x.1 ≠ a := by
  induction m with
  | nil => simp [Memory.erase]
  | cons y m ih =>
    rw [Memory.erase]
    split
    · exact ih
    · simpa using ⟨‹_›, by simpa using ih⟩

theorem Memory.byteAt_insert_self {a : Nat} (b : Byte) {m : Memory} (h : ∀ x ∈ m, x.1 ≠ a) :
    Memory.byteAt c a (m.insert (a, b)) = b := by
  induction m with
  | nil => simp [Memory.insert, Memory.byteAt]
  | cons y m ih =>
    rw [Memory.insert]
    split
    · simp [Memory.byteAt]
    · rw [Memory.byteAt, if_neg (h y (by simp)), ih fun x hx => h x (by simp [hx])]

theorem Memory.byteAt_insert_ne {a a' : Nat} (h : a ≠ a') (b : Byte) (m : Memory) :
    Memory.byteAt c a (m.insert (a', b)) = Memory.byteAt c a m := by
  induction m with
  | nil => simp [Memory.insert, Memory.byteAt, h.symm]
  | cons y m ih =>
    rw [Memory.insert]
    split
    · rw [Memory.byteAt, if_neg h.symm]
    · simp only [Memory.byteAt, ih]

/-- A read after a write to the same address gives the byte written. -/
theorem Memory.byteAt_writeByte_self {a : Nat} (h : a < memSize) (b : Byte) (m : Memory) :
    Memory.byteAt c a (m.writeByte c a b) = b := by
  rw [Memory.writeByte, if_pos h]
  split
  · rw [Memory.byteAt_erase_self, ‹b = _›]
  · exact Memory.byteAt_insert_self b (Memory.not_mem_erase m)

/-- A write leaves every other address alone. -/
theorem Memory.byteAt_writeByte_ne {a a' : Nat} (h : a ≠ a') (b : Byte) (m : Memory) :
    Memory.byteAt c a (m.writeByte c a' b) = Memory.byteAt c a m := by
  rw [Memory.writeByte]
  split
  · split
    · exact Memory.byteAt_erase_ne h m
    · rw [Memory.byteAt_insert_ne h, Memory.byteAt_erase_ne h]
  · rfl

/-! ### Consecutive bytes -/

/-- A write of consecutive bytes leaves every address outside them alone. -/
theorem Memory.byteAt_writeBytes_outside {a base : Nat} {bs : List Byte}
    (h : ¬(base ≤ a ∧ a < base + bs.length)) (m : Memory) :
    Memory.byteAt c a (m.writeBytes c base bs) = Memory.byteAt c a m := by
  induction bs generalizing base m with
  | nil => rfl
  | cons b bs ih =>
    simp only [List.length_cons] at h
    rw [Memory.writeBytes, ih (by omega), Memory.byteAt_writeByte_ne (by omega)]

/-- Each byte written is read back at its address. -/
theorem Memory.byteAt_writeBytes_inside {base k : Nat} {bs : List Byte} (hk : k < bs.length)
    (h : base + bs.length ≤ memSize) (m : Memory) :
    Memory.byteAt c (base + k) (m.writeBytes c base bs) = bs[k] := by
  induction bs generalizing base k m with
  | nil => simp at hk
  | cons b bs ih =>
    simp only [List.length_cons] at h hk
    rw [Memory.writeBytes]
    cases k with
    | zero =>
      rw [Memory.byteAt_writeBytes_outside (by omega)]
      exact Memory.byteAt_writeByte_self (by omega) b m
    | succ k =>
      have := ih (base := base + 1) (k := k) (m := m.writeByte c base b) (by omega) (by omega)
      rw [show base + 1 + k = base + (k + 1) by omega] at this
      rw [this, List.getElem_cons_succ]

/-! ### The canonical form -/

theorem Memory.wfFrom_mono {lo lo' : Nat} (h : lo' ≤ lo) {m : Memory} (hm : Memory.wfFrom c lo m = true) :
    Memory.wfFrom c lo' m = true := by
  cases m with
  | nil => rfl
  | cons x m =>
    simp only [Memory.wfFrom, Bool.and_eq_true, decide_eq_true_eq] at hm ⊢
    exact ⟨⟨⟨by omega, hm.1.1.2⟩, hm.1.2⟩, hm.2⟩

theorem Memory.wfFrom_erase {lo a : Nat} {m : Memory} (hm : Memory.wfFrom c lo m = true) :
    Memory.wfFrom c lo (m.erase a) = true := by
  induction m generalizing lo with
  | nil => rfl
  | cons x m ih =>
    rw [Memory.erase]
    simp only [Memory.wfFrom, Bool.and_eq_true, decide_eq_true_eq] at hm
    split
    · exact Memory.wfFrom_mono (by omega) (ih hm.2)
    · simp only [Memory.wfFrom, Bool.and_eq_true, decide_eq_true_eq]
      exact ⟨hm.1, ih hm.2⟩

theorem Memory.wfFrom_insert {lo a : Nat} {b : Byte} {m : Memory} (hm : Memory.wfFrom c lo m = true)
    (ha : a < memSize) (hlo : lo ≤ a) (hb : b ≠ resetByte c a) (hne : ∀ x ∈ m, x.1 ≠ a) :
    Memory.wfFrom c lo (m.insert (a, b)) = true := by
  induction m generalizing lo with
  | nil => simp [Memory.insert, Memory.wfFrom, ha, hlo, hb]
  | cons x m ih =>
    have hx := hne x (by simp)
    simp only [Memory.wfFrom, Bool.and_eq_true, decide_eq_true_eq] at hm
    rw [Memory.insert]
    split
    · simp only [Memory.wfFrom, Bool.and_eq_true, decide_eq_true_eq, bne_iff_ne]
      exact ⟨⟨⟨hlo, ha⟩, hb⟩, ⟨⟨by simpa using ‹_›, hm.1.1.2⟩, by simpa using hm.1.2⟩, hm.2⟩
    · simp only [Memory.wfFrom, Bool.and_eq_true, decide_eq_true_eq]
      refine ⟨hm.1, ih hm.2 ?_ fun y hy => hne y (by simp [hy])⟩
      simp only at *
      omega

theorem Memory.wf_writeByte {a : Nat} {b : Byte} {m : Memory} (hm : m.wf c = true) :
    (m.writeByte c a b).wf c = true := by
  rw [Memory.writeByte]
  split
  · split
    · exact Memory.wfFrom_erase hm
    · exact Memory.wfFrom_insert (Memory.wfFrom_erase hm) ‹_› (Nat.zero_le _) ‹_› (Memory.not_mem_erase m)
  · exact hm

/-- Every memory operation keeps the canonical form: a write of consecutive bytes is the only one. -/
theorem Memory.wf_writeBytes {a : Nat} {bs : List Byte} {m : Memory} (hm : m.wf c = true) :
    (m.writeBytes c a bs).wf c = true := by
  induction bs generalizing a m with
  | nil => exact hm
  | cons b bs ih => exact ih (Memory.wf_writeByte hm)

/-- The reset memory, which lists nothing, has the canonical form. -/
theorem Memory.wf_nil : Memory.wf c [] = true := rfl

/-! ### The state's view -/

/-- An address outside 0x000 to 0xFFF has no byte (20_memory.md R61). -/
theorem State.readByte_none (s : State) {a : Nat} (h : 0x1000 ≤ a) : s.readByte a = none := by
  rw [State.readByte, if_neg (by simp only [memSize]; omega)]

theorem State.readByte_some (s : State) {a : Nat} (h : a < 0x1000) :
    s.readByte a = some (Memory.byteAt s.config a s.mem) := by
  rw [State.readByte, if_pos (by simpa [memSize] using h)]

/-- What is read depends on memory and the configuration alone. -/
theorem State.readByte_congr {s t : State} (hm : t.mem = s.mem) (hc : t.config = s.config) (a : Nat) :
    t.readByte a = s.readByte a := by
  rw [State.readByte, State.readByte, hm, hc]

theorem State.readByte_memWrite_outside {s : State} {a base : Nat} {bs : List Byte}
    (h : ¬(base ≤ a ∧ a < base + bs.length)) : (s.memWrite base bs).readByte a = s.readByte a := by
  simp only [State.readByte, State.memWrite_mem, State.memWrite_config, Memory.byteAt_writeBytes_outside h]

theorem State.readByte_memWrite_inside {s : State} {base k : Nat} {bs : List Byte} (hk : k < bs.length)
    (h : base + bs.length ≤ 0x1000) : (s.memWrite base bs).readByte (base + k) = some bs[k] := by
  rw [State.readByte_some _ (by omega), State.memWrite_mem, State.memWrite_config,
    Memory.byteAt_writeBytes_inside hk (by simpa [memSize] using h)]

@[simp] theorem State.memRead_length (s : State) (base len : Nat) : (s.memRead base len).length = len := by
  simp [State.memRead]

theorem State.memRead_getElem (s : State) {base len k : Nat} (hk : k < len) :
    (s.memRead base len)[k]'(by simpa using hk) = Memory.byteAt s.config (base + k) s.mem := by
  simp [State.memRead]

/-- The bytes read are the bytes at their addresses, in bounds. -/
theorem State.readByte_eq_memRead (s : State) {base len k : Nat} (hk : k < len) (h : base + len ≤ 0x1000) :
    s.readByte (base + k) = some ((s.memRead base len)[k]'(by simpa using hk)) := by
  rw [State.readByte_some _ (by omega), State.memRead_getElem s hk]

/-! ### The access check (42_index_memory.md R179) -/

/-- A passed check: every address of the access exists. -/
theorem accessFault_eq_none {base : Word} {len : Nat} :
    accessFault base len = none ↔ len = 0 ∨ base.toNat + len ≤ 0x1000 := by
  rw [accessFault]
  split <;> simp <;> omega

/-- A failed check names the lowest out-of-bounds address. -/
theorem accessFault_eq_some {base : Word} {len : Nat} {a : Word} (h : accessFault base len = some a) :
    1 ≤ len ∧ 0x1000 < base.toNat + len ∧ a.toNat = max base.toNat 0x1000 := by
  rw [accessFault] at h
  split at h
  · have := base.isLt
    simp only [Option.some.injEq] at h
    subst h
    refine ⟨by omega, by omega, ?_⟩
    rw [BitVec.toNat_ofNat, Nat.mod_eq_of_lt (by omega)]
  · simp at h

/-- What an access at I can do: its body in bounds, or MEM_BOUNDS at the lowest out-of-bounds address. -/
theorem State.accessAtI_cases (s : State) (len : Nat) (body : State) :
    ((len = 0 ∨ s.i.toNat + len ≤ 0x1000) ∧ s.accessAtI len body = body) ∨
    (∃ a : Word, 1 ≤ len ∧ 0x1000 < s.i.toNat + len ∧ a.toNat = max s.i.toNat 0x1000 ∧
      s.accessAtI len body = s.raise .memBounds a) := by
  rw [State.accessAtI]
  split
  · obtain ⟨h1, h2, h3⟩ := accessFault_eq_some ‹_›
    exact .inr ⟨_, h1, h2, h3, rfl⟩
  · exact .inl ⟨accessFault_eq_none.mp ‹_›, rfl⟩

end Sys2Proof.Machine
end

