-- ==== Sys2Proof/Laws/Registers.lean ====
section
/-!
SUPPORT. Registers, the flag write, runs of registers, the stack, the timers and the keys.
-/
namespace Sys2Proof.Machine

/-! ### Registers -/

/-- What a register holds after a register write. -/
theorem State.setReg_reg (s : State) (x r : Reg) (b : Byte) :
    (s.setReg x b).reg r = if r = x then b else s.reg r := by
  simp only [State.reg, State.setReg_v, Vector.get_eq_getElem, Vector.getElem_set]
  by_cases h : r = x
  · simp [h]
  · have : x.toNat ≠ r.toNat := fun e => h (BitVec.eq_of_toNat_eq e.symm)
    simp [h, this]

@[simp] theorem State.setReg_reg_self (s : State) (x : Reg) (b : Byte) : (s.setReg x b).reg x = b := by
  simp [State.setReg_reg]

theorem State.setReg_reg_ne (s : State) {x r : Reg} (h : r ≠ x) (b : Byte) :
    (s.setReg x b).reg r = s.reg r := by
  simp [State.setReg_reg, h]

/-- What a register holds after a result and its flag: VF the flag, whatever x is (10_state.md R23). -/
theorem State.setRegFlag_reg (s : State) (x r : Reg) (b : Byte) (f : Bool) :
    (s.setRegFlag x b f).reg r = if r = Reg.flag then flagByte f else if r = x then b else s.reg r := by
  simp only [State.setRegFlag, State.setReg_reg]

/-- A result and its flag write the register file and nothing else. -/
theorem State.setRegFlag_eq (s : State) (x : Reg) (b : Byte) (f : Bool) :
    s.setRegFlag x b f = { s with v := (s.setRegFlag x b f).v } := rfl

/-- A run of register writes writes the register file and nothing else. -/
theorem State.setRegsFrom_eq (s : State) (k : Nat) (bs : List Byte) :
    s.setRegsFrom k bs = { s with v := (s.setRegsFrom k bs).v } := by
  induction bs generalizing s k with
  | nil => rfl
  | cons b bs ih =>
    have h := ih (s.setReg (BitVec.ofNat 4 k) b) (k + 1)
    simpa only [State.setRegsFrom, State.setReg] using h

/-- What a register holds after a run of register writes. -/
theorem State.setRegsFrom_reg (s : State) {k : Nat} {bs : List Byte} (h : k + bs.length ≤ 16) (r : Reg) :
    (s.setRegsFrom k bs).reg r =
      if hr : k ≤ r.toNat ∧ r.toNat < k + bs.length then bs[r.toNat - k] else s.reg r := by
  induction bs generalizing s k with
  | nil => rw [dif_neg (by simp only [List.length_nil]; omega)]; rfl
  | cons b bs ih =>
    simp only [List.length_cons] at h
    rw [State.setRegsFrom, ih _ (by omega), State.setReg_reg]
    have hk : (r = BitVec.ofNat 4 k) ↔ r.toNat = k := by
      rw [← BitVec.toNat_inj, BitVec.toNat_ofNat, Nat.mod_eq_of_lt (by omega)]
    by_cases h0 : r.toNat = k
    · rw [dif_neg (by omega), if_pos (hk.mpr h0), dif_pos (by simp only [List.length_cons]; omega)]
      simp [h0]
    · rw [if_neg (mt hk.mp h0)]
      by_cases h1 : k + 1 ≤ r.toNat ∧ r.toNat < k + 1 + bs.length
      · rw [dif_pos h1, dif_pos (by simp only [List.length_cons]; omega), List.getElem_cons]
        rw [dif_neg (by omega)]
        congr 1
      · rw [dif_neg h1, dif_neg (by simp only [List.length_cons]; omega)]

@[simp] theorem State.regsUpTo_length (s : State) (x : Reg) : (s.regsUpTo x).length = x.toNat + 1 := by
  simp [State.regsUpTo]

theorem State.regsUpTo_getElem (s : State) (x : Reg) {k : Nat} (hk : k < x.toNat + 1) :
    (s.regsUpTo x)[k]'(by simpa using hk) = s.reg (BitVec.ofNat 4 k) := by
  simp [State.regsUpTo]

@[simp] theorem decimalDigits_length (v : Byte) : (decimalDigits v).length = 3 := rfl

/-! ### I after a dump or a load -/

/-- The increment of Fx55 and Fx65 writes I and nothing else. -/
theorem State.bumpI_eq (s : State) (x : Reg) :
    s.bumpI x = { s with i := if s.config.loadStoreIncrement then s.i + x.setWidth 16 + 1 else s.i } := by
  rw [State.bumpI]
  split <;> rfl

/-! ### The call stack -/

/-- A push succeeds below depth 16, and then stores at the old depth. -/
theorem State.push_eq_some {s t : State} {w : Word} (h : s.push w = some t) :
    ∃ hd : s.sp.val < 16,
      t = { s with stack := s.stack.set s.sp.val w hd, sp := ⟨s.sp.val + 1, Nat.succ_lt_succ hd⟩ } := by
  rw [State.push] at h
  split at h
  · exact ⟨‹_›, (Option.some.inj h).symm⟩
  · cases h

theorem State.push_eq_none {s : State} {w : Word} : s.push w = none ↔ s.sp.val = 16 := by
  have := s.sp.isLt
  have hd : stackDepth = 16 := rfl
  rw [State.push]
  split
  · simp only [reduceCtorEq, false_iff]; omega
  · simp only [true_iff]; omega

/-- A pop succeeds above depth 0, and then reads the top entry. -/
theorem State.pop_eq_some {s t : State} {w : Word} (h : s.pop = some (t, w)) :
    ∃ (k : Nat) (hk : k < 16), s.sp.val = k + 1 ∧ w = s.stack[k] ∧ t = { s with sp := ⟨k, by omega⟩ } := by
  rw [State.pop] at h
  split at h
  · cases h
  · next k hk hsp =>
    simp only [Option.some.injEq, Prod.mk.injEq] at h
    exact ⟨k, by omega, by rw [hsp], h.2.symm, h.1.symm⟩

theorem State.pop_eq_none {s : State} : s.pop = none ↔ s.sp.val = 0 := by
  rw [State.pop]
  split <;> simp_all

/-! ### Timers -/

/-- A timer after t ticks, as a number: the floor is 0, with no wrap (10_state.md R36). -/
theorem timerAfter_toNat (timer : Byte) (t : Nat) : (timerAfter timer t).toNat = timer.toNat - t := by
  have := timer.isLt
  rw [timerAfter, BitVec.toNat_ofNat, Nat.mod_eq_of_lt (by omega)]

/-! ### Keys -/

/-- No key is found exactly when the latch is all 0. -/
theorem State.lowestKey_eq_none {s : State} : s.lowestKey = none ↔ s.keys = 0 := by
  rw [State.lowestKey, List.find?_eq_none]
  constructor
  · intro h
    apply BitVec.eq_of_getLsbD_eq
    intro k hk
    simpa [State.key] using h k (by simpa using hk)
  · intro h k _
    simp [State.key, h]

/-- The key found is pressed, and no lower key is. -/
theorem State.lowestKey_eq_some {s : State} {k : Nat} (h : s.lowestKey = some k) :
    k < 16 ∧ s.key k = true ∧ ∀ j < k, s.key j = false := by
  rw [State.lowestKey, List.find?_range_eq_some] at h
  exact ⟨by simpa using h.2.1, h.1, fun j hj => by simpa using h.2.2 j hj⟩

end Sys2Proof.Machine
end

