-- ==== Sys2Proof/Laws/Display.lean ====
section
/-!
SUPPORT. The framebuffer: one toggle, and the whole blit pixel by pixel, which is the handy form of the loop of
43_display.md R203.
-/
namespace Sys2Proof.Machine

open Sys2Proof.Safety

/-- Two framebuffers with the same pixels are the same. -/
theorem FrameBuffer.ext_pixel {f g : FrameBuffer} (h : ∀ px py, f.pixel px py = g.pixel px py) : f = g := by
  apply Vector.ext
  intro x hx
  apply Vector.ext
  intro y hy
  exact h ⟨x, hx⟩ ⟨y, hy⟩

@[simp] theorem FrameBuffer.pixel_clear (px : Fin 64) (py : Fin 32) : FrameBuffer.clear.pixel px py = false := by
  simp [FrameBuffer.pixel, FrameBuffer.clear, Vector.get_eq_getElem]

/-- A toggle flips its pixel and no other. -/
theorem FrameBuffer.pixel_toggle (fb : FrameBuffer) (qx px : Fin 64) (qy py : Fin 32) :
    (fb.toggle qx qy).pixel px py = (fb.pixel px py ^^ decide (qx = px ∧ qy = py)) := by
  simp only [FrameBuffer.toggle, FrameBuffer.pixel, Vector.get_eq_getElem, Vector.getElem_set]
  by_cases hx : qx.val = px.val
  · by_cases hy : qy.val = py.val
    · simp [hx, hy, Fin.ext_iff]
    · simp [hx, hy, Fin.ext_iff]
  · simp [hx, Fin.ext_iff]

/-- The blit of one sprite bit: it flips the pixel it falls on, and the accumulator gathers what it hit. -/
theorem blitPixel_pixel (qx qy : Nat) (acc : FrameBuffer × Bool) (px : Fin 64) (py : Fin 32) :
    (blitPixel qx qy acc).1.pixel px py = (acc.1.pixel px py ^^ decide (qx = px.val ∧ qy = py.val)) := by
  rw [blitPixel]
  split
  · simp [FrameBuffer.pixel_toggle, Fin.ext_iff]
  · rename_i h
    have := px.isLt
    have := py.isLt
    have : ¬(qx = px.val ∧ qy = py.val) := by omega
    simp [this]

theorem blitPixel_hit (qx qy : Nat) (acc : FrameBuffer × Bool) :
    (blitPixel qx qy acc).2 = true ↔
      acc.2 = true ∨ ∃ (px : Fin 64) (py : Fin 32), qx = px.val ∧ qy = py.val ∧ acc.1.pixel px py = true := by
  rw [blitPixel]
  split
  · rename_i h
    simp only [Bool.or_eq_true]
    refine or_congr_right ⟨fun hp => ⟨⟨qx, h.1⟩, ⟨qy, h.2⟩, rfl, rfl, hp⟩, ?_⟩
    rintro ⟨px, py, rfl, rfl, hp⟩
    exact hp
  · rename_i h
    refine ⟨.inl, ?_⟩
    rintro (hp | ⟨px, py, rfl, rfl, -⟩)
    · exact hp
    · exact absurd ⟨px.isLt, py.isLt⟩ h

/-- Does the row `b`, whose last `left` columns are still to draw at `x0`, touch column `px`? -/
def rowTouches (x0 : Nat) (b : Byte) (left px : Nat) : Bool :=
  decide (x0 + 8 ≤ px + left) && decide (px < x0 + 8) && b.getLsbD (7 + x0 - px)

theorem rowTouches_zero (x0 : Nat) (b : Byte) (px : Nat) : rowTouches x0 b 0 px = false := by
  have : ¬(x0 + 8 ≤ px + 0 ∧ px < x0 + 8) := by omega
  simp only [rowTouches, Bool.and_eq_false_imp, Bool.and_eq_true, decide_eq_true_eq]
  exact fun h => absurd h this

theorem rowTouches_succ (x0 : Nat) (b : Byte) {left : Nat} (h : left < 8) (px : Nat) :
    rowTouches x0 b (left + 1) px =
      ((b.getLsbD left && decide (x0 + (7 - left) = px)) ^^ rowTouches x0 b left px) := by
  by_cases hp : x0 + (7 - left) = px
  · have h1 : 7 + x0 - px = left := by omega
    have h2 : ¬(x0 + 8 ≤ px + left) := by omega
    have h3 : x0 + 8 ≤ px + (left + 1) := by omega
    have h4 : px < x0 + 8 := by omega
    simp [rowTouches, hp, h1, h2, h3, h4]
  · have h1 : decide (x0 + 8 ≤ px + (left + 1)) = decide (x0 + 8 ≤ px + left) := by
      rw [decide_eq_decide]; omega
    simp [rowTouches, hp, h1]

/-- One sprite row, pixel by pixel. -/
theorem blitCols_pixel (x0 qy : Nat) (b : Byte) {left : Nat} (h : left ≤ 8) (acc : FrameBuffer × Bool)
    (px : Fin 64) (py : Fin 32) :
    (blitCols x0 qy b left acc).1.pixel px py =
      (acc.1.pixel px py ^^ (decide (qy = py.val) && rowTouches x0 b left px.val)) := by
  induction left generalizing acc with
  | zero => simp [blitCols, rowTouches_zero]
  | succ left ih =>
    rw [blitCols, ih (by omega), rowTouches_succ x0 b (by omega)]
    cases hb : b.getLsbD left
    · simp
    · by_cases hy : qy = py.val <;> by_cases hx : x0 + (7 - left) = px.val <;>
        simp [blitPixel_pixel, hy, hx]

/-- One sprite row, its collisions. -/
theorem blitCols_hit (x0 qy : Nat) (b : Byte) {left : Nat} (h : left ≤ 8) (acc : FrameBuffer × Bool) :
    (blitCols x0 qy b left acc).2 = true ↔
      acc.2 = true ∨ ∃ (px : Fin 64) (py : Fin 32),
        qy = py.val ∧ rowTouches x0 b left px.val = true ∧ acc.1.pixel px py = true := by
  induction left generalizing acc with
  | zero => simp [blitCols, rowTouches_zero]
  | succ left ih =>
    rw [blitCols, ih (by omega)]
    cases hb : b.getLsbD left
    · simp [rowTouches_succ x0 b (show left < 8 by omega), hb]
    · simp only [if_true, blitPixel_hit, blitPixel_pixel, or_assoc]
      refine or_congr_right ⟨?_, ?_⟩
      · rintro (⟨px, py, hx, hy, hp⟩ | ⟨px, py, hy, ht, hp⟩)
        · refine ⟨px, py, hy, ?_, hp⟩
          have h1 : rowTouches x0 b left px.val = false := by
            have : ¬(x0 + 8 ≤ px.val + left) := by omega
            simp [rowTouches, this]
          simp [rowTouches_succ x0 b (show left < 8 by omega), hb, hx, h1]
        · refine ⟨px, py, hy, ?_, ?_⟩ <;>
            (have h1 : x0 + 8 ≤ px.val + left := by
              simp only [rowTouches, Bool.and_eq_true, decide_eq_true_eq] at ht
              exact ht.1.1
             have h2 : ¬(x0 + (7 - left) = px.val) := by omega)
          · simp [rowTouches_succ x0 b (show left < 8 by omega), hb, h2, ht]
          · simpa [h2] using hp
      · rintro ⟨px, py, hy, ht, hp⟩
        by_cases h2 : x0 + (7 - left) = px.val
        · exact .inl ⟨px, py, h2, hy, hp⟩
        · refine .inr ⟨px, py, hy, ?_, ?_⟩
          · simpa [rowTouches_succ x0 b (show left < 8 by omega), hb, h2] using ht
          · simpa [h2] using hp

/-- Does the sprite with its top row at `qy` touch a pixel? The Bool form of Safety.Touches, over the list of rows. -/
def spriteTouches (x0 : Nat) : (qy : Nat) → List Byte → (px py : Nat) → Bool
  | _, [], _, _ => false
  | qy, b :: bs, px, py => (decide (qy = py) && rowTouches x0 b 8 px) || spriteTouches x0 (qy + 1) bs px py

theorem spriteTouches_above {x0 qy : Nat} {bs : List Byte} {px py : Nat} (h : py < qy) :
    spriteTouches x0 qy bs px py = false := by
  induction bs generalizing qy with
  | nil => rfl
  | cons b bs ih =>
    have : qy ≠ py := by omega
    simp [spriteTouches, this, ih (show py < qy + 1 by omega)]

/-- The rows of a sprite, pixel by pixel. -/
theorem blitRows_pixel (x0 qy : Nat) (bs : List Byte) (acc : FrameBuffer × Bool) (px : Fin 64) (py : Fin 32) :
    (blitRows x0 qy bs acc).1.pixel px py = (acc.1.pixel px py ^^ spriteTouches x0 qy bs px.val py.val) := by
  induction bs generalizing qy acc with
  | nil => simp [blitRows, spriteTouches]
  | cons b bs ih =>
    rw [blitRows, ih, blitCols_pixel x0 qy b (Nat.le_refl 8), spriteTouches]
    by_cases hy : qy = py.val
    · simp [hy, spriteTouches_above (show py.val < py.val + 1 by omega)]
    · simp [hy]

/-- The rows of a sprite, their collisions. -/
theorem blitRows_hit (x0 qy : Nat) (bs : List Byte) (acc : FrameBuffer × Bool) :
    (blitRows x0 qy bs acc).2 = true ↔
      acc.2 = true ∨ ∃ (px : Fin 64) (py : Fin 32),
        spriteTouches x0 qy bs px.val py.val = true ∧ acc.1.pixel px py = true := by
  induction bs generalizing qy acc with
  | nil => simp [blitRows, spriteTouches]
  | cons b bs ih =>
    rw [blitRows, ih, blitCols_hit x0 qy b (Nat.le_refl 8), or_assoc]
    refine or_congr_right ⟨?_, ?_⟩
    · rintro (⟨px, py, hy, ht, hp⟩ | ⟨px, py, ht, hp⟩)
      · exact ⟨px, py, by simp [spriteTouches, hy, ht], hp⟩
      · have hy : qy ≠ py.val := by
          intro hy
          rw [spriteTouches_above (by omega)] at ht
          cases ht
        exact ⟨px, py, by simp [spriteTouches, ht], by simpa [blitCols_pixel x0 qy b (Nat.le_refl 8), hy] using hp⟩
    · rintro ⟨px, py, ht, hp⟩
      by_cases hy : qy = py.val
      · refine .inl ⟨px, py, hy, ?_, hp⟩
        simpa [spriteTouches, hy, spriteTouches_above (show py.val < py.val + 1 by omega)] using ht
      · refine .inr ⟨px, py, by simpa [spriteTouches, hy] using ht, ?_⟩
        simpa [blitCols_pixel x0 qy b (Nat.le_refl 8), hy] using hp

/-- The Bool form, written out over the list of rows. -/
theorem spriteTouches_iff (x0 y0 : Nat) (bs : List Byte) (px py : Nat) :
    spriteTouches x0 y0 bs px py = true ↔
      x0 ≤ px ∧ px < x0 + 8 ∧ y0 ≤ py ∧ ∃ b, bs[py - y0]? = some b ∧ b.getLsbD (7 - (px - x0)) = true := by
  induction bs generalizing y0 with
  | nil => simp [spriteTouches]
  | cons b bs ih =>
    have hsub : px < x0 + 8 → x0 ≤ px → 7 + x0 - px = 7 - (px - x0) := by omega
    rw [spriteTouches, Bool.or_eq_true, ih]
    simp only [rowTouches, Bool.and_eq_true, decide_eq_true_eq]
    constructor
    · rintro (⟨hy, ⟨h1, h2⟩, hb⟩ | ⟨h1, h2, hy, b', hb', hb⟩)
      · refine ⟨by omega, h2, by omega, b, by simp [hy], ?_⟩
        rwa [hsub h2 (by omega)] at hb
      · refine ⟨h1, h2, by omega, b', ?_, hb⟩
        rw [show py - y0 = (py - (y0 + 1)) + 1 by omega, List.getElem?_cons_succ]
        exact hb'
    · rintro ⟨h1, h2, hy, b', hb', hb⟩
      by_cases he : y0 = py
      · refine .inl ⟨he, ⟨by omega, h2⟩, ?_⟩
        rw [he, Nat.sub_self, List.getElem?_cons_zero, Option.some.injEq] at hb'
        rwa [hsub h2 h1, hb']
      · refine .inr ⟨h1, h2, by omega, b', ?_, hb⟩
        rwa [show py - y0 = (py - (y0 + 1)) + 1 by omega, List.getElem?_cons_succ] at hb'

/-- On the sprite bytes a draw reads, in bounds, the Bool form says what Safety.Touches says. -/
theorem spriteTouches_memRead (s : State) {n : Nat} (h : n = 0 ∨ s.i.toNat + n ≤ 0x1000) (x0 y0 : Nat)
    (px : Fin 64) (py : Fin 32) :
    spriteTouches x0 y0 (s.memRead s.i.toNat n) px.val py.val = true ↔ Touches s x0 y0 n px py := by
  rw [spriteTouches_iff, Touches]
  refine and_congr_right fun _ => and_congr_right fun _ => and_congr_right fun hy => ?_
  constructor
  · rintro ⟨b, hb, hbit⟩
    obtain ⟨hlt, rfl⟩ := List.getElem?_eq_some_iff.mp hb
    have hlt' : py.val - y0 < n := by simpa using hlt
    exact ⟨by omega, _, s.readByte_eq_memRead hlt' (by omega), hbit⟩
  · rintro ⟨hn, b, hb, hbit⟩
    have hlt : py.val - y0 < n := by omega
    rw [s.readByte_eq_memRead hlt (by omega), Option.some.injEq] at hb
    exact ⟨b, by rw [List.getElem?_eq_getElem (by simpa using hlt), hb], hbit⟩

/-- The whole blit: a pixel is flipped exactly when the sprite touches it. -/
theorem blit_pixel (x0 y0 : Nat) (bs : List Byte) (fb : FrameBuffer) (px : Fin 64) (py : Fin 32) :
    (blit x0 y0 bs fb).1.pixel px py = (fb.pixel px py ^^ spriteTouches x0 y0 bs px.val py.val) :=
  blitRows_pixel x0 y0 bs (fb, false) px py

/-- The whole blit: a collision exactly when the sprite touches a pixel that is set. -/
theorem blit_hit (x0 y0 : Nat) (bs : List Byte) (fb : FrameBuffer) :
    (blit x0 y0 bs fb).2 = true ↔
      ∃ (px : Fin 64) (py : Fin 32), spriteTouches x0 y0 bs px.val py.val = true ∧ fb.pixel px py = true := by
  simp [blit, blitRows_hit]

end Sys2Proof.Machine
end

