-- ==== Sys2Proof/Laws/Frames.lean ====
section
/-!
SUPPORT. The frames of the shared endings of a meaning: what a register write with the advance, a flag write, a jump and a
memory write leave unchanged.
-/
namespace Sys2Proof.Machine

open Sys2Proof.Safety

/-- Memory reads as it read when memory and the construction arguments are as they were. -/
theorem keepsMemory_of_eq {s t : State} (hm : t.mem = s.mem) (hc : t.config = s.config) : KeepsMemory s t :=
  State.readByte_congr hm hc

/-- Registers are as they were when the register file is. -/
theorem keepsRegs_of_eq {s t : State} (hv : t.v = s.v) (xs : List Reg) : KeepsRegs xs s t := by
  intro r _
  rw [State.reg, State.reg, hv]

/-- A result in V[x] and the advance. -/
theorem onlyRegs_setReg (s : State) (x : Reg) (b : Byte) : OnlyRegs [x] s (s.setReg x b).advance :=
  ⟨rfl, fun _ hr => State.setReg_reg_ne s (by simpa using hr) b, keepsMemory_of_eq rfl rfl⟩

/-- A result in V[x], its flag in VF, and the advance. -/
theorem onlyRegs_setRegFlag (s : State) (x : Reg) (b : Byte) (f : Bool) :
    OnlyRegs [x, Reg.flag] s (s.setRegFlag x b f).advance := by
  refine ⟨rfl, fun r hr => ?_, keepsMemory_of_eq rfl rfl⟩
  simp only [List.mem_cons, List.not_mem_nil, or_false, not_or] at hr
  rw [State.advance_reg, State.setRegFlag_reg, if_neg hr.2, if_neg hr.1]

/-- A jump, a skip or the plain advance. -/
theorem onlyPc_setPc (s : State) (w : Word) : OnlyPc s (s.setPc w) := ⟨rfl, keepsMemory_of_eq rfl rfl⟩

/-- A write of consecutive bytes leaves the bytes outside it alone. -/
theorem keepsMemoryOutside_memWrite (s : State) (base : Nat) (bs : List Byte) :
    KeepsMemoryOutside base bs.length s (s.memWrite base bs) :=
  fun _ h => State.readByte_memWrite_outside h

/-- A frame outside some bytes goes through an update that keeps memory. -/
theorem keepsMemoryOutside_congr {base len : Nat} {s t u : State} (h : KeepsMemoryOutside base len s t)
    (hm : u.mem = t.mem) (hc : u.config = t.config) : KeepsMemoryOutside base len s u :=
  fun a ha => (State.readByte_congr hm hc a).trans (h a ha)

end Sys2Proof.Machine
end

