-- ==== Sys2Proof/Laws/Step.lean ====
section
/-!
SUPPORT. The stages around exec: the fetch, what is decoded, what the end of a step makes of a dispatch, and everything a
step can do.
-/
namespace Sys2Proof.Machine

open Sys2Proof.Safety

/-! ### Fetch -/

/-- The fetch passes exactly where PC may be fetched from. -/
theorem State.fetchFault_eq_none {s : State} : s.fetchFault = none ↔ PcValid s := by
  rw [State.fetchFault, PcValid]
  split
  · simp; omega
  · cases s.config.alignCheck <;> cases s.pc.getLsbD 0 <;> simp <;> omega

/-- What the fetch can raise: PC_BOUNDS first, then PC_MISALIGNED (60_exceptions.md R249). -/
theorem State.fetchFault_eq_some {s : State} {c : FaultCause} (h : s.fetchFault = some c) :
    (c = .pcBounds ∧ s.pc.toNat + 1 > 0xFFF) ∨
    (c = .pcMisaligned ∧ s.pc.toNat + 1 ≤ 0xFFF ∧ s.config.alignCheck = true ∧ s.pc.getLsbD 0 = true) := by
  rw [State.fetchFault] at h
  split at h
  · exact .inl ⟨(Option.some.inj h).symm, ‹_›⟩
  · split at h
    · rename_i h1 h2
      exact .inr ⟨(Option.some.inj h).symm, by omega, by simpa using h2⟩
    · cases h

/-- The bytes fetched are the bytes at PC and PC + 1. -/
theorem State.fetchBytes_eq (s : State) :
    s.fetchBytes =
      [Memory.byteAt s.config s.pc.toNat s.mem, Memory.byteAt s.config (s.pc.toNat + 1) s.mem] := rfl

/-- The word fetched is the word at PC. -/
theorem State.fetchBytes_of_wordAtPc {s : State} {w : Word} (h : WordAtPc s w) :
    ∃ hi lo : Byte, s.fetchBytes = [hi, lo] ∧ wordOf hi lo = w := by
  obtain ⟨hi, lo, hhi, hlo, rfl⟩ := h
  refine ⟨hi, lo, ?_, rfl⟩
  rw [State.readByte] at hhi hlo
  split at hhi
  · split at hlo
    · rw [State.fetchBytes_eq, Option.some.inj hhi, Option.some.inj hlo]
    · cases hlo
  · cases hhi

/-! ### Decode of two bytes -/

theorem decode_pair (hi lo : Byte) :
    decode [hi, lo] =
      match decodeWord (wordOf hi lo) with
      | some i => .ok (i, [])
      | none => .error (.unmatched (wordOf hi lo)) := rfl

/-! ### The end of a step -/

/-- What the end of a step makes of a dispatch that answered a state. -/
theorem finish_next (s t : State) (b : Bool) :
    finish s b (.next t) =
      .next (if t.faultCause = .none then t.endStep b else s.raise t.faultCause t.faultAddr) := by
  rw [finish]
  split <;> rfl

/-! ### Everything a step can do -/

/-- A step of a halted core, of a core whose fetch faults, or of a core that runs its fetched bytes. -/
theorem step_cases (s : State) :
    (s.halted = true ∧ step s = .next s.clearOutputs) ∨
    (s.halted = false ∧ ∃ c, s.clearOutputs.fetchFault = some c ∧
      step s = .next (s.clearOutputs.raise c s.pc)) ∨
    (s.halted = false ∧ PcValid s ∧ step s = runFetched s.clearOutputs s.clearOutputs.fetchBytes) := by
  rw [step, runStep]
  cases hh : s.halted
  · rw [if_neg (by simp), runActive]
    cases hf : s.clearOutputs.fetchFault with
    | none => exact .inr (.inr ⟨rfl, State.fetchFault_eq_none.mp hf, rfl⟩)
    | some c => exact .inr (.inl ⟨rfl, c, rfl, rfl⟩)
  · exact .inl ⟨rfl, if_pos rfl⟩

/-- A core that is not halted has no fault recorded and is loaded. -/
theorem State.halted_eq_false {s : State} : s.halted = false ↔ s.loaded = true ∧ s.faultCause = .none := by
  simp [State.halted]

/-- The handling of an unmatched word: the advance, or ILLEGAL_INSTRUCTION under STRICT_DECODE. -/
theorem State.unmatched_cases (s : State) :
    (s.config.strictDecode = false ∧ s.unmatched = s.advance) ∨
    (s.config.strictDecode = true ∧ s.unmatched = s.raise .illegalInstruction s.pc) := by
  cases h : s.config.strictDecode <;> simp [State.unmatched, h]

end Sys2Proof.Machine
end

