-- ==== Sys2Proof/Laws/Exec.lean ====
section
/-!
SUPPORT. Everything an instruction can do, said once: it raises the one fault it has, or it completes and then writes only what
is its own to write.
-/
namespace Sys2Proof.Machine

open Sys2Proof.Safety

/-- The instruction raised its fault (60_exceptions.md R241). -/
inductive Raises (i : Instr) (s : State) : State → Prop
  | overflow (nnn : Addr) (hi : i = .call nnn) (hsp : s.sp.val = 16) :
    Raises i s (s.raise .stackOverflow (addr16 nnn))
  | underflow (ign : Nibble) (hi : i = .ret ign) (hsp : s.sp.val = 0) :
    Raises i s (s.raise .stackUnderflow 0)
  | bcd (x : Reg) (a : Word) (hi : i = .ldBVx x) (hb : s.i.toNat + 2 > 0xFFF)
    (ha : a.toNat = max s.i.toNat 0x1000) : Raises i s (s.raise .memBounds a)
  | dump (x : Reg) (a : Word) (hi : i = .ldMemVx x) (hb : s.i.toNat + x.toNat > 0xFFF)
    (ha : a.toNat = max s.i.toNat 0x1000) : Raises i s (s.raise .memBounds a)
  | load (x : Reg) (a : Word) (hi : i = .ldVxMem x) (hb : s.i.toNat + x.toNat > 0xFFF)
    (ha : a.toNat = max s.i.toNat 0x1000) : Raises i s (s.raise .memBounds a)
  | draw (x y : Reg) (n : Nibble) (a : Word) (hi : i = .drw x y n) (hn : 1 ≤ n.toNat)
    (hb : s.i.toNat + n.toNat - 1 > 0xFFF) (ha : a.toNat = max s.i.toNat 0x1000) :
    Raises i s (s.raise .memBounds a)
  | illegal (nnn : Addr) (hi : i = .sys nnn) (hs : s.config.strictDecode = true) :
    Raises i s (s.raise .illegalInstruction s.pc)

/-- The instruction completed: what it leaves alone, and which instructions write what. -/
structure Completes (i : Instr) (s t : State) : Prop where
  faultCause : t.faultCause = s.faultCause
  faultPc : t.faultPc = s.faultPc
  faultAddr : t.faultAddr = s.faultAddr
  shouldBuzz : t.shouldBuzz = s.shouldBuzz
  awaitKey : t.awaitKey = s.awaitKey
  keys : t.keys = s.keys
  loaded : t.loaded = s.loaded
  config : t.config = s.config
  tacc : t.tacc = s.tacc
  display : (t.fb = s.fb ∧ t.displayUpdated = s.displayUpdated) ∨
    (t.displayUpdated = true ∧ ((∃ ign, i = .cls ign) ∨ ∃ x y n, i = .drw x y n))
  mem : t.mem = s.mem ∨ (∃ x, i = .ldBVx x ∧ t.mem = (s.memWrite s.i.toNat (decimalDigits (s.reg x))).mem) ∨
    ∃ x, i = .ldMemVx x ∧ t.mem = (s.memWrite s.i.toNat (s.regsUpTo x)).mem
  index : t.i = s.i ∨ (∃ nnn, i = .ldI nnn) ∨ (∃ x, i = .addIVx x) ∨ (∃ x, i = .ldFVx x) ∨
    (s.config.loadStoreIncrement = true ∧ ∃ x, i = .ldMemVx x ∨ i = .ldVxMem x)
  stack : t.stack = s.stack ∨ ∃ nnn, i = .call nnn
  sp : t.sp = s.sp ∨ (∃ nnn, i = .call nnn) ∨ ∃ ign, i = .ret ign
  dt : t.dt = s.dt ∨ ∃ x, i = .ldDtVx x
  st : t.st = s.st ∨ ∃ x, i = .ldStVx x
  draws : t.draws = s.draws ∨ ∃ x kk, i = .rnd x kk
  pc : t.pc = s.pc ∨ t.pc = s.pc + 2 ∨ t.pc = s.pc + 4 ∨
    (∃ nnn, i = .jp nnn ∨ i = .call nnn ∨ i = .jpV0 nnn) ∨ ∃ ign, i = .ret ign

theorem State.skipIf_cases (s : State) (b : Bool) :
    (s.skipIf b).pc = s.pc + 2 ∨ (s.skipIf b).pc = s.pc + 4 := by
  cases b <;> simp

/-- A completed instruction that ends with the advance and writes registers at most. -/
theorem completes_setReg_advance (i : Instr) (s : State) (x : Reg) (b : Byte) :
    Completes i s (s.setReg x b).advance := by
  constructor <;> simp

theorem completes_setRegFlag_advance (i : Instr) (s : State) (x : Reg) (b : Byte) (f : Bool) :
    Completes i s (s.setRegFlag x b f).advance := by
  constructor <;> simp [State.setRegFlag]

theorem completes_skipIf (i : Instr) (s : State) (b : Bool) : Completes i s (s.skipIf b) where
  pc := by rcases s.skipIf_cases b with h | h <;> simp only [h, true_or, or_true]
  faultCause := rfl
  faultPc := rfl
  faultAddr := rfl
  shouldBuzz := rfl
  awaitKey := rfl
  keys := rfl
  loaded := rfl
  config := rfl
  tacc := rfl
  display := .inl ⟨rfl, rfl⟩
  mem := .inl rfl
  index := .inl rfl
  stack := .inl rfl
  sp := .inl rfl
  dt := .inl rfl
  st := .inl rfl
  draws := .inl rfl

/-- What an instruction can do: raise its own fault, or complete. -/
theorem exec_cases {i : Instr} {s t : State} (h : exec i s = .next t) : Raises i s t ∨ Completes i s t := by
  cases i
  case sys nnn =>
    simp only [exec, execSys, Host.Outcome.next.injEq] at h
    subst h
    rcases s.unmatched_cases with ⟨_, h⟩ | ⟨hs, h⟩ <;> rw [h]
    · exact .inr (by constructor <;> simp)
    · exact .inl (.illegal nnn rfl hs)
  case ret ign =>
    simp only [exec, execRet] at h
    split at h <;> cases h
    · exact .inl (.underflow ign rfl (State.pop_eq_none.mp ‹_›))
    · obtain ⟨k, hk, -, -, rfl⟩ := State.pop_eq_some ‹_›
      exact .inr (by constructor <;> simp)
  case call nnn =>
    simp only [exec, execCall] at h
    split at h <;> cases h
    · exact .inl (.overflow nnn rfl (State.push_eq_none.mp ‹_›))
    · obtain ⟨hd, rfl⟩ := State.push_eq_some ‹_›
      exact .inr (by constructor <;> simp)
  case ldVxK x =>
    simp only [exec, execLdVxK] at h
    split at h <;> cases h
    · exact .inr (by constructor <;> simp)
    · exact .inr (completes_setReg_advance ..)
  case ldBVx x =>
    simp only [exec, execLdBVx, Host.Outcome.next.injEq] at h
    subst h
    rcases s.accessAtI_cases 3 (s.memWrite s.i.toNat (decimalDigits (s.reg x))).advance with
      ⟨-, h⟩ | ⟨a, -, hb, ha, h⟩ <;> rw [h]
    · exact .inr (by constructor <;> simp)
    · exact .inl (.bcd x a rfl (by omega) ha)
  case ldMemVx x =>
    simp only [exec, execLdMemVx, Host.Outcome.next.injEq] at h
    subst h
    rcases s.accessAtI_cases (x.toNat + 1) ((s.memWrite s.i.toNat (s.regsUpTo x)).bumpI x).advance with
      ⟨-, h⟩ | ⟨a, -, hb, ha, h⟩ <;> rw [h]
    · refine .inr ?_
      rw [State.bumpI_eq]
      cases hc : s.config.loadStoreIncrement <;> constructor <;> simp [hc]
    · exact .inl (.dump x a rfl (by omega) ha)
  case ldVxMem x =>
    simp only [exec, execLdVxMem, Host.Outcome.next.injEq] at h
    subst h
    rcases s.accessAtI_cases (x.toNat + 1)
      ((s.setRegsFrom 0 (s.memRead s.i.toNat (x.toNat + 1))).bumpI x).advance with
      ⟨-, h⟩ | ⟨a, -, hb, ha, h⟩ <;> rw [h]
    · refine .inr ?_
      rw [State.bumpI_eq, State.setRegsFrom_eq]
      cases hc : s.config.loadStoreIncrement <;> constructor <;> simp [hc]
    · exact .inl (.load x a rfl (by omega) ha)
  case drw x y n =>
    simp only [exec, execDrw, Host.Outcome.next.injEq] at h
    subst h
    rcases s.accessAtI_cases n.toNat
      ((s.setFrame (s.drawn x y n).1).setReg Reg.flag (flagByte (s.drawn x y n).2)).advance with
      ⟨-, h⟩ | ⟨a, hn, hb, ha, h⟩ <;> rw [h]
    · exact .inr (by constructor <;> simp)
    · exact .inl (.draw x y n a rfl hn (by omega) ha)
  case seVxKk | sneVxKk | seVxVy | sneVxVy | skp | sknp => cases h; exact .inr (completes_skipIf ..)
  case ldVxKk | addVxKk | ldVxVy | orVxVy | andVxVy | xorVxVy | ldVxDt =>
    cases h; exact .inr (completes_setReg_advance ..)
  case addVxVy | subVxVy | shrVxVy | subnVxVy | shlVxVy =>
    cases h; exact .inr (completes_setRegFlag_advance ..)
  case cls | jp | jpV0 | ldI | addIVx | ldFVx | rnd | ldDtVx | ldStVx =>
    cases h; exact .inr (by constructor <;> simp)

end Sys2Proof.Machine
end

