-- ==== Sys2Proof/Laws/PerInstr.lean ====
section
/-!
SUPPORT. Per instruction: the word of an instruction lies in its row of the opcode table (30_encoding.md R96, "a word w is the
instruction when w & mask = match").
-/
namespace Sys2Proof.Laws.RowMask

/-- The instruction's word, masked by its row's mask, is its row's match. -/
def Statement (i : Instr) : Prop := encode i &&& rowMask i = rowMatch i

/-! ### The three masks of the table on the three formats -/

theorem nnn_op (op : Nibble) (nnn : Addr) : encodeNNN op nnn &&& 0xF000#16 = encodeNNN op 0 := by
  rw [show (0xF000#16 : Word) = encodeNNN 0xF#4 0#12 from rfl, encodeNNN_and]
  congr 1
  · exact BitVec.and_allOnes
  · exact BitVec.and_zero

theorem xkk_op (op x : Nibble) (kk : Byte) : encodeXKK op x kk &&& 0xF000#16 = encodeXKK op 0 0 := by
  rw [show (0xF000#16 : Word) = encodeXKK 0xF#4 0#4 0#8 from rfl, encodeXKK_and]
  congr 1
  · exact BitVec.and_allOnes
  · exact BitVec.and_zero
  · exact BitVec.and_zero

theorem xkk_kk (op x : Nibble) (kk : Byte) : encodeXKK op x kk &&& 0xF0FF#16 = encodeXKK op 0 kk := by
  rw [show (0xF0FF#16 : Word) = encodeXKK 0xF#4 0#4 0xFF#8 from rfl, encodeXKK_and]
  congr 1
  · exact BitVec.and_allOnes
  · exact BitVec.and_zero
  · exact BitVec.and_allOnes

theorem xy_op (op x y sub : Nibble) : encodeXY op x y sub &&& 0xF000#16 = encodeXY op 0 0 0 := by
  rw [show (0xF000#16 : Word) = encodeXY 0xF#4 0#4 0#4 0#4 from rfl, encodeXY_and]
  congr 1
  · exact BitVec.and_allOnes
  · exact BitVec.and_zero
  · exact BitVec.and_zero
  · exact BitVec.and_zero

theorem xy_sub (op x y sub : Nibble) : encodeXY op x y sub &&& 0xF00F#16 = encodeXY op 0 0 sub := by
  rw [show (0xF00F#16 : Word) = encodeXY 0xF#4 0#4 0#4 0xF#4 from rfl, encodeXY_and]
  congr 1
  · exact BitVec.and_allOnes
  · exact BitVec.and_zero
  · exact BitVec.and_zero
  · exact BitVec.and_allOnes

/-! ### One lemma an instruction -/

theorem sys (nnn : Addr) : Statement (.sys nnn) := nnn_op ..
theorem cls (ign : Nibble) : Statement (.cls ign) := xkk_kk ..
theorem ret (ign : Nibble) : Statement (.ret ign) := xkk_kk ..
theorem jp (nnn : Addr) : Statement (.jp nnn) := nnn_op ..
theorem call (nnn : Addr) : Statement (.call nnn) := nnn_op ..
theorem seVxKk (x : Reg) (kk : Byte) : Statement (.seVxKk x kk) := xkk_op ..
theorem sneVxKk (x : Reg) (kk : Byte) : Statement (.sneVxKk x kk) := xkk_op ..
theorem seVxVy (x y : Reg) (ign : Nibble) : Statement (.seVxVy x y ign) := xy_op ..
theorem ldVxKk (x : Reg) (kk : Byte) : Statement (.ldVxKk x kk) := xkk_op ..
theorem addVxKk (x : Reg) (kk : Byte) : Statement (.addVxKk x kk) := xkk_op ..
theorem ldVxVy (x y : Reg) : Statement (.ldVxVy x y) := xy_sub ..
theorem orVxVy (x y : Reg) : Statement (.orVxVy x y) := xy_sub ..
theorem andVxVy (x y : Reg) : Statement (.andVxVy x y) := xy_sub ..
theorem xorVxVy (x y : Reg) : Statement (.xorVxVy x y) := xy_sub ..
theorem addVxVy (x y : Reg) : Statement (.addVxVy x y) := xy_sub ..
theorem subVxVy (x y : Reg) : Statement (.subVxVy x y) := xy_sub ..
theorem shrVxVy (x y : Reg) : Statement (.shrVxVy x y) := xy_sub ..
theorem subnVxVy (x y : Reg) : Statement (.subnVxVy x y) := xy_sub ..
theorem shlVxVy (x y : Reg) : Statement (.shlVxVy x y) := xy_sub ..
theorem sneVxVy (x y : Reg) (ign : Nibble) : Statement (.sneVxVy x y ign) := xy_op ..
theorem ldI (nnn : Addr) : Statement (.ldI nnn) := nnn_op ..
theorem jpV0 (nnn : Addr) : Statement (.jpV0 nnn) := nnn_op ..
theorem rnd (x : Reg) (kk : Byte) : Statement (.rnd x kk) := xkk_op ..
theorem drw (x y : Reg) (n : Nibble) : Statement (.drw x y n) := xy_op ..
theorem skp (x : Reg) : Statement (.skp x) := xkk_kk ..
theorem sknp (x : Reg) : Statement (.sknp x) := xkk_kk ..
theorem ldVxDt (x : Reg) : Statement (.ldVxDt x) := xkk_kk ..
theorem ldVxK (x : Reg) : Statement (.ldVxK x) := xkk_kk ..
theorem ldDtVx (x : Reg) : Statement (.ldDtVx x) := xkk_kk ..
theorem ldStVx (x : Reg) : Statement (.ldStVx x) := xkk_kk ..
theorem addIVx (x : Reg) : Statement (.addIVx x) := xkk_kk ..
theorem ldFVx (x : Reg) : Statement (.ldFVx x) := xkk_kk ..
theorem ldBVx (x : Reg) : Statement (.ldBVx x) := xkk_kk ..
theorem ldMemVx (x : Reg) : Statement (.ldMemVx x) := xkk_kk ..
theorem ldVxMem (x : Reg) : Statement (.ldVxMem x) := xkk_kk ..

end Sys2Proof.Laws.RowMask
end

