-- ==== Sys2Proof/Tests/Slice0.lean ====
section
/-!
SUPPORT. The model's own tests. Expected results come from the spec: the patterns of 30_encoding.md R96 and the vectors of
95_test_vectors.md (named by their numbers there). Then, for each statement with hypotheses, a witness that meets them.
-/
namespace Sys2Proof.Tests

open Sys2Proof.Machine Sys2Proof.Safety

/-! ### Helpers -/

/-- The machine after reset with something loaded. -/
def start : State := { State.reset with loaded := true }

/-- `start` with another configuration. -/
def startWith (c : Config) : State := { State.construct c with loaded := true }

/-- The state with bytes placed in memory. -/
def bytesAt (s : State) (a : Nat) (bs : List Byte) : State := s.memWrite a bs

/-- Does a result hold a next state with the property? -/
def sat (r : Result) (p : State → Bool) : Bool :=
  match r with
  | .next t => p t
  | .fault _ => false
  | .refused _ => false

/-- Does the word at PC, run in one step, lead to a state with the property? -/
def after (s : State) (w : Nat) (p : State → Bool) : Bool := sat (step (s.withFetchWord 16 w)) p

/-- The fault registers and PC a faulting step leaves. -/
def faults (s : State) (w : Nat) (c : FaultCause) (addr : Word) : Bool :=
  after s w fun t => t.faultCause == c && t.faultAddr == addr && t.faultPc == s.pc && t.pc == s.pc

/-- Is every pixel of a list set? -/
def lit (s : State) (ps : List (Fin 64 × Fin 32)) : Bool := ps.all fun p => s.fb.pixel p.1 p.2

/-- Is no pixel of a list set? -/
def dark (s : State) (ps : List (Fin 64 × Fin 32)) : Bool := ps.all fun p => !s.fb.pixel p.1 p.2

/-! ### WellFormed: an ill-formed term for the check -/

theorem test_wf_refuses_sys_cls : Instr.wf (.sys 0x0E0#12) = false := by decide
theorem test_wf_refuses_sys_ret : Instr.wf (.sys 0xAEE#12) = false := by decide
theorem test_wf_allows_sys : Instr.wf (.sys 0x0E1#12) = true := by decide

/-! ### Decode and encode: a written-out word for each row of R96 -/

theorem test_decode_sys : decodeWord 0x0123#16 = some (.sys 0x123#12) := by decide
theorem test_decode_cls : decodeWord 0x00E0#16 = some (.cls 0x0#4) := by decide
theorem test_decode_cls_ignored : decodeWord 0x0FE0#16 = some (.cls 0xF#4) := by decide
theorem test_decode_ret : decodeWord 0x00EE#16 = some (.ret 0x0#4) := by decide
theorem test_decode_ret_ignored : decodeWord 0x03EE#16 = some (.ret 0x3#4) := by decide
theorem test_decode_jp : decodeWord 0x10EE#16 = some (.jp 0x0EE#12) := by decide
theorem test_decode_call : decodeWord 0x2ABC#16 = some (.call 0xABC#12) := by decide
theorem test_decode_seVxKk : decodeWord 0x3310#16 = some (.seVxKk 0x3#4 0x10#8) := by decide
theorem test_decode_sneVxKk : decodeWord 0x4310#16 = some (.sneVxKk 0x3#4 0x10#8) := by decide
theorem test_decode_seVxVy : decodeWord 0x5121#16 = some (.seVxVy 0x1#4 0x2#4 0x1#4) := by decide
theorem test_decode_ldVxKk : decodeWord 0x6A42#16 = some (.ldVxKk 0xA#4 0x42#8) := by decide
theorem test_decode_addVxKk : decodeWord 0x7101#16 = some (.addVxKk 0x1#4 0x01#8) := by decide
theorem test_decode_ldVxVy : decodeWord 0x8120#16 = some (.ldVxVy 0x1#4 0x2#4) := by decide
theorem test_decode_orVxVy : decodeWord 0x8121#16 = some (.orVxVy 0x1#4 0x2#4) := by decide
theorem test_decode_andVxVy : decodeWord 0x8122#16 = some (.andVxVy 0x1#4 0x2#4) := by decide
theorem test_decode_xorVxVy : decodeWord 0x8123#16 = some (.xorVxVy 0x1#4 0x2#4) := by decide
theorem test_decode_addVxVy : decodeWord 0x8124#16 = some (.addVxVy 0x1#4 0x2#4) := by decide
theorem test_decode_subVxVy : decodeWord 0x8125#16 = some (.subVxVy 0x1#4 0x2#4) := by decide
theorem test_decode_shrVxVy : decodeWord 0x8126#16 = some (.shrVxVy 0x1#4 0x2#4) := by decide
theorem test_decode_subnVxVy : decodeWord 0x8127#16 = some (.subnVxVy 0x1#4 0x2#4) := by decide
theorem test_decode_shlVxVy : decodeWord 0x812E#16 = some (.shlVxVy 0x1#4 0x2#4) := by decide
theorem test_decode_sneVxVy : decodeWord 0x912F#16 = some (.sneVxVy 0x1#4 0x2#4 0xF#4) := by decide
theorem test_decode_ldI : decodeWord 0xA2F0#16 = some (.ldI 0x2F0#12) := by decide
theorem test_decode_jpV0 : decodeWord 0xB300#16 = some (.jpV0 0x300#12) := by decide
theorem test_decode_rnd : decodeWord 0xC30F#16 = some (.rnd 0x3#4 0x0F#8) := by decide
theorem test_decode_drw : decodeWord 0xD015#16 = some (.drw 0x0#4 0x1#4 0x5#4) := by decide
theorem test_decode_skp : decodeWord 0xE59E#16 = some (.skp 0x5#4) := by decide
theorem test_decode_sknp : decodeWord 0xE5A1#16 = some (.sknp 0x5#4) := by decide
theorem test_decode_ldVxDt : decodeWord 0xF207#16 = some (.ldVxDt 0x2#4) := by decide
theorem test_decode_ldVxK : decodeWord 0xF40A#16 = some (.ldVxK 0x4#4) := by decide
theorem test_decode_ldDtVx : decodeWord 0xFA15#16 = some (.ldDtVx 0xA#4) := by decide
theorem test_decode_ldStVx : decodeWord 0xF318#16 = some (.ldStVx 0x3#4) := by decide
theorem test_decode_addIVx : decodeWord 0xF71E#16 = some (.addIVx 0x7#4) := by decide
theorem test_decode_ldFVx : decodeWord 0xF529#16 = some (.ldFVx 0x5#4) := by decide
theorem test_decode_ldBVx : decodeWord 0xF333#16 = some (.ldBVx 0x3#4) := by decide
theorem test_decode_ldMemVx : decodeWord 0xF255#16 = some (.ldMemVx 0x2#4) := by decide
theorem test_decode_ldVxMem : decodeWord 0xF265#16 = some (.ldVxMem 0x2#4) := by decide

/-- R97: one unmatched word of each group that has them. -/
theorem test_decode_unmatched :
    decodeWord 0x8008#16 = none ∧ decodeWord 0xE000#16 = none ∧ decodeWord 0xF000#16 = none := by decide

/-- Every word of the tests above is encoded back. -/
theorem test_encode_words :
    [0x0123#16, 0x0FE0#16, 0x03EE#16, 0x10EE#16, 0x2ABC#16, 0x3310#16, 0x4310#16, 0x5121#16, 0x6A42#16, 0x7101#16,
      0x8120#16, 0x8121#16, 0x8122#16, 0x8123#16, 0x8124#16, 0x8125#16, 0x8126#16, 0x8127#16, 0x812E#16].all
      (fun w => (decodeWord w).map encode == some w) = true := by decide
theorem test_encode_words_9F :
    [0x912F#16, 0xA2F0#16, 0xB300#16, 0xC30F#16, 0xD015#16, 0xE59E#16, 0xE5A1#16, 0xF207#16, 0xF40A#16, 0xFA15#16,
      0xF318#16, 0xF71E#16, 0xF529#16, 0xF333#16, 0xF255#16, 0xF265#16].all
      (fun w => (decodeWord w).map encode == some w) = true := by decide

/-- R65: the high byte lies at the lower address. -/
theorem test_encode_bytes : encodeBytes (.ldVxKk 0xA#4 0x42#8) = [0x6A#8, 0x42#8] := by decide
theorem test_table_word : decodeTableWord 16 0xA2F0 = some (.ldI 0x2F0#12) := by decide

/-! ### One step: decode and fetch (vectors E) -/

theorem test_sys_E1 : after start 0x0123 (fun t => t.pc == 0x202 && t.faultCause == .none) = true := by decide
theorem test_sys_strict_E2 :
    faults (startWith { defaultConfig with strictDecode := true }) 0x0123 .illegalInstruction 0x200 = true := by decide
theorem test_unmatched_strict_E3 :
    faults (startWith { defaultConfig with strictDecode := true }) 0x8008 .illegalInstruction 0x200 = true := by decide
theorem test_unmatched_E4 : after start 0xE000 (fun t => t.pc == 0x202 && t.faultCause == .none) = true := by decide
theorem test_bounds_before_odd_E8 :
    sat (step { start with pc := 0xFFF }) (fun t => t.faultCause == .pcBounds && t.faultAddr == 0xFFF) = true := by decide
theorem test_bounds_E9 :
    sat (step { start with pc := 0x1000 }) (fun t => t.faultCause == .pcBounds && t.faultAddr == 0x1000) = true := by decide
theorem test_misaligned_E10 : faults { start with pc := 0x201 } 0x6042 .pcMisaligned 0x201 = true := by decide
theorem test_unaligned_E11 :
    after { startWith { defaultConfig with alignCheck := false } with pc := 0x201 } 0x6042
      (fun t => t.reg 0 == 0x42 && t.pc == 0x203) = true := by decide
theorem test_last_word_E12 :
    after { start with pc := 0xFFE } 0x0000
      (fun t => t.pc == 0x1000 && sat (step t) fun u => u.faultCause == .pcBounds && u.faultPc == 0x1000) = true := by
  decide

/-! ### Control flow (vectors CF) -/

theorem test_jp_CF1 : after start 0x1ABC (fun t => t.pc == 0xABC) = true := by decide
theorem test_jp_odd_CF2 :
    after start 0x1201 (fun t => t.pc == 0x201 && sat (step t) fun u => u.faultCause == .pcMisaligned) = true := by decide
theorem test_call_CF5 :
    after start 0x2300 (fun t => t.stack.get 0 == 0x202 && t.sp == 1 && t.pc == 0x300) = true := by decide
theorem test_call_full_CF6 : faults { start with sp := 16 } 0x2ABC .stackOverflow 0xABC = true := by decide
theorem test_ret_CF7 :
    after { start with sp := 1, stack := start.stack.set 0 0x202 } 0x00EE
      (fun t => t.sp == 0 && t.pc == 0x202) = true := by decide
theorem test_ret_empty_CF8 : faults start 0x00EE .stackUnderflow 0 = true := by decide
theorem test_seVxKk_CF9 : after (start.setReg 3 0x10) 0x3310 (fun t => t.pc == 0x204) = true := by decide
theorem test_seVxKk_CF10 : after (start.setReg 3 0x11) 0x3310 (fun t => t.pc == 0x202) = true := by decide
theorem test_sneVxKk_CF11 : after (start.setReg 3 0x10) 0x4310 (fun t => t.pc == 0x202) = true := by decide
theorem test_seVxVy_E7 : after ((start.setReg 1 7).setReg 2 7) 0x5121 (fun t => t.pc == 0x204) = true := by decide
theorem test_seVxVy_CF13 : after ((start.setReg 1 7).setReg 2 8) 0x5120 (fun t => t.pc == 0x202) = true := by decide
theorem test_sneVxVy_CF14 : after ((start.setReg 1 7).setReg 2 8) 0x9120 (fun t => t.pc == 0x204) = true := by decide
theorem test_sneVxVy_CF15 : after (start.setReg 1 7) 0x9110 (fun t => t.pc == 0x202) = true := by decide
theorem test_jpV0_CF16 : after (start.setReg 0 4) 0xB300 (fun t => t.pc == 0x304) = true := by decide
theorem test_jpV0_CF17 : after (start.setReg 0 0xFF) 0xBFFF (fun t => t.pc == 0x10FE) = true := by decide

/-! ### Loads, arithmetic, logic, shifts, random (vectors A) -/

theorem test_ldVxKk_A1 : after start 0x6A42 (fun t => t.reg 0xA == 0x42) = true := by decide
theorem test_addVxKk_A2 :
    after ((start.setReg 1 0xFF).setReg 0xF 0x55) 0x7101 (fun t => t.reg 1 == 0 && t.reg 0xF == 0x55) = true := by decide
theorem test_addVxKk_A3 : after (start.setReg 0xF 1) 0x7FFF (fun t => t.reg 0xF == 0) = true := by decide
theorem test_ldVxVy_A4 : after (start.setReg 2 0x9C) 0x8120 (fun t => t.reg 1 == 0x9C) = true := by decide
theorem test_orVxVy_A5 :
    after (((start.setReg 1 0xF0).setReg 2 0x0F).setReg 0xF 0x77) 0x8121
      (fun t => t.reg 1 == 0xFF && t.reg 0xF == 0x77) = true := by decide
theorem test_andVxVy_A6 :
    after ((start.setReg 1 0xF0).setReg 2 0x3C) 0x8122 (fun t => t.reg 1 == 0x30) = true := by decide
theorem test_xorVxVy_A7 :
    after ((start.setReg 1 0xF0).setReg 2 0x3C) 0x8123 (fun t => t.reg 1 == 0xCC) = true := by decide
theorem test_addVxVy_A8 :
    after ((start.setReg 1 0xC8).setReg 2 0x64) 0x8124 (fun t => t.reg 1 == 0x2C && t.reg 0xF == 1) = true := by decide
theorem test_addVxVy_A11 :
    after ((start.setReg 0xF 0xFF).setReg 1 1) 0x8F14 (fun t => t.reg 0xF == 1) = true := by decide
theorem test_subVxVy_A13 :
    after ((start.setReg 1 0x42).setReg 2 0x42) 0x8125 (fun t => t.reg 1 == 0 && t.reg 0xF == 1) = true := by decide
theorem test_subVxVy_A15 :
    after ((start.setReg 1 5).setReg 2 7) 0x8125 (fun t => t.reg 1 == 0xFE && t.reg 0xF == 0) = true := by decide
theorem test_subnVxVy_A17 :
    after ((start.setReg 1 5).setReg 2 7) 0x8127 (fun t => t.reg 1 == 2 && t.reg 0xF == 1) = true := by decide
theorem test_subnVxVy_A18 :
    after ((start.setReg 1 7).setReg 2 5) 0x8127 (fun t => t.reg 1 == 0xFE && t.reg 0xF == 0) = true := by decide
theorem test_shrVxVy_A20 :
    after (start.setReg 2 5) 0x8126 (fun t => t.reg 1 == 2 && t.reg 0xF == 1 && t.reg 2 == 5) = true := by decide
theorem test_shrVxVy_A21 :
    after ((startWith { defaultConfig with shiftSource := .vx }).setReg 1 5) 0x8126
      (fun t => t.reg 1 == 2 && t.reg 0xF == 1) = true := by decide
theorem test_shlVxVy_A26 :
    after (start.setReg 2 0x81) 0x812E (fun t => t.reg 1 == 2 && t.reg 0xF == 1) = true := by decide
theorem test_shlVxVy_A27 :
    after ((startWith { defaultConfig with shiftSource := .vx }).setReg 1 0x81) 0x812E
      (fun t => t.reg 1 == 2 && t.reg 0xF == 1) = true := by decide
/-- A30, whatever byte is drawn. -/
theorem test_rnd_A30 : ∃ t, exec (.rnd 3 0x00) start = .next t ∧ t.reg 3 = 0 :=
  ⟨_, rfl, by rw [State.advance_reg, State.setReg_reg_self]; exact BitVec.and_zero⟩
/-- RND advances PC by 2 and counts its draw. -/
theorem test_rnd_completes : after start 0xC30F (fun t => t.pc == 0x202 && t.draws == 1) = true := by decide

/-! ### Index register and memory (vectors M) -/

theorem test_ldI_M1 : after start 0xA2F0 (fun t => t.i == 0x2F0) = true := by decide
theorem test_addIVx_M2 : after { start.setReg 0 0x10 with i := 0x0FFA } 0xF01E (fun t => t.i == 0x100A) = true := by decide
theorem test_addIVx_M3 :
    after { (start.setReg 0 2).setReg 0xF 0x33 with i := 0xFFFF } 0xF01E
      (fun t => t.i == 1 && t.reg 0xF == 0x33) = true := by decide
theorem test_ldFVx_M4 : after (start.setReg 5 0x0B) 0xF529 (fun t => t.i == 0x37) = true := by decide
theorem test_ldFVx_M5 : after (start.setReg 5 0x1A) 0xF529 (fun t => t.i == 0x32) = true := by decide
theorem test_ldBVx_M6 :
    after { start.setReg 3 0x9C with i := 0x300 } 0xF333
      (fun t => t.memRead 0x300 3 == [1, 5, 6] && t.i == 0x300) = true := by decide
theorem test_ldBVx_M8 : faults { start.setReg 0 0xFF with i := 0xFFE } 0xF033 .memBounds 0x1000 = true := by decide
theorem test_ldMemVx_M9 :
    after { ((start.setReg 0 1).setReg 1 2).setReg 2 3 with i := 0x300 } 0xF255
      (fun t => t.memRead 0x300 3 == [1, 2, 3] && t.i == 0x303) = true := by decide
theorem test_ldMemVx_M11 :
    after { start.setReg 0xF 0x99 with i := 0xFF0 } 0xFF55
      (fun t => t.readByte 0xFFF == some 0x99 && t.i == 0x1000 && t.faultCause == .none) = true := by decide
theorem test_ldVxMem_M14 :
    after { bytesAt start 0x30F [0x99] with i := 0x300 } 0xFF65
      (fun t => t.reg 0xF == 0x99 && t.i == 0x310) = true := by decide
theorem test_ldVxMem_M15 : faults { start with i := 0x2000 } 0xF065 .memBounds 0x2000 = true := by decide

/-! ### Display (vectors D) -/

/-- The pixels of glyph 0 at the origin. -/
def glyph0 : List (Fin 64 × Fin 32) :=
  [(0, 0), (1, 0), (2, 0), (3, 0), (0, 1), (3, 1), (0, 2), (3, 2), (0, 3), (3, 3), (0, 4), (1, 4), (2, 4), (3, 4)]

theorem test_drw_D1 :
    after start 0xD015 (fun t =>
      lit t glyph0 && dark t [(4, 0), (1, 1), (2, 1), (0, 5), (63, 0)] && t.reg 0xF == 0 && t.displayUpdated) = true := by
  decide
theorem test_drw_collision_D3 :
    after { start with fb := start.fb.toggle 0 0 } 0xD015
      (fun t => dark t [(0, 0)] && lit t (glyph0.drop 1) && t.reg 0xF == 1) = true := by decide
theorem test_cls_D11 :
    after { (start.setReg 0xF 0x77) with fb := start.fb.toggle 5 6 } 0x00E0
      (fun t => dark t [(5, 6)] && t.displayUpdated && t.reg 0xF == 0x77) = true := by decide

/-! ### Timers and keys (vectors T) -/

theorem test_tick_T1 :
    after { start with dt := 7, st := 2, tacc := 175 } 0x6000 (fun t => t.dt == 4 && t.st == 0 && t.tacc == 25) = true := by
  decide
theorem test_ldVxDt_T3 : after { start with dt := 1, tacc := 50 } 0xF007 (fun t => t.reg 0 == 0) = true := by decide
theorem test_ldVxDt_T4 : after { start with dt := 0x20 } 0xF207 (fun t => t.reg 2 == 0x20) = true := by decide
theorem test_ldDtVx_T5 :
    after { start.setReg 0 5 with dt := 9, tacc := 50 } 0xF015 (fun t => t.dt == 5) = true := by decide
theorem test_ldStVx_T6 : after (start.setReg 0 2) 0xF018 (fun t => t.st == 2 && t.shouldBuzz) = true := by decide
theorem test_skp_T8 :
    after { start.setReg 0 5 with keys := 0x0020 } 0xE09E (fun t => t.pc == 0x204) = true := by decide
theorem test_skp_T9 : after (start.setReg 0 5) 0xE09E (fun t => t.pc == 0x202) = true := by decide
theorem test_sknp_T10 : after (start.setReg 0 5) 0xE0A1 (fun t => t.pc == 0x204) = true := by decide
theorem test_sknp_T11 :
    after { start.setReg 0 5 with keys := 0x0020 } 0xE0A1 (fun t => t.pc == 0x202) = true := by decide
theorem test_ldVxK_T16 :
    after { start with dt := 3, tacc := 50 } 0xF40A
      (fun t => t.pc == 0x200 && t.reg 4 == 0 && t.awaitKey && t.dt == 2) = true := by decide
theorem test_ldVxK_T15 :
    after { start with keys := 0x0028 } 0xF40A (fun t => t.reg 4 == 0x03 && t.pc == 0x202 && !t.awaitKey) = true := by decide

/-! ### Faults, halted and host transactions (vectors F) -/

theorem test_fault_discards_tick_F1 :
    after { start with dt := 5, tacc := 50 } 0x00EE
      (fun t => t.faultCause.code == 2 && t.dt == 5 && t.tacc == 50) = true := by decide
theorem test_not_loaded_F4 :
    sat (step State.reset) (fun t => t == State.reset) = true := by decide
theorem test_set_key_F7 : State.reset.setKey 16 true = .refused (.keyOutsideInterface 16) := rfl
theorem test_load_small :
    ((State.reset.load [0x12, 0x34]).1.memRead 0x200 2, (State.reset.load [0x12, 0x34]).2) = ([0x12, 0x34], true) := by
  decide
/-- R64: the last row of glyph F lies at FONT_BASE + 79, and nothing follows it. -/
theorem test_font : State.reset.readByte 79 = some 0x80 ∧ State.reset.readByte 80 = some 0 := by decide

/-! ### Witnesses: for every statement with hypotheses, states and operands that meet them together -/

/-- The Bool form of Safety.Executes, which evaluation decides. -/
def runs (s : State) (w : Word) : Bool :=
  !s.halted && s.fetchFault.isNone && s.fetchBytes == [w.extractLsb' 8 8, w.extractLsb' 0 8]

theorem executes_of_runs {s : State} {w : Word} (h : runs s w = true) : Executes s w := by
  simp only [runs, Bool.and_eq_true, Bool.not_eq_true', Option.isNone_iff_eq_none, beq_iff_eq, State.fetchFault_eq_none,
    State.fetchBytes_eq, List.cons.injEq, and_true] at h
  obtain ⟨⟨hh, hp⟩, hi, lo⟩ := h
  have hb := hp.1
  refine ⟨hh, hp, w.extractLsb' 8 8, w.extractLsb' 0 8, ?_, ?_, ?_⟩
  · rw [State.readByte_some s (by omega), hi]
  · rw [State.readByte_some s (by omega), lo]
  · exact (BitVec.extractLsb'_append_extractLsb'_eq_extractLsb' (by rfl)).symm ▸ (by simp)

/-- `start` with a word at PC. -/
def at200 (w : Nat) : State := start.withFetchWord 16 w

/-- A state with a fault recorded: the step of a RET with an empty stack. -/
def faulted : State := (at200 0x00EE).raise .stackUnderflow 0

/-- STRICT_DECODE set. -/
def strict : State := startWith { defaultConfig with strictDecode := true }

theorem test_hyp_DecodeOfEncode : Instr.wf (.sys 0xFFF#12) = true ∧ Instr.wf (.cls 0xF#4) = true := by decide
theorem test_hyp_EncodeOfDecode : decodeWord 0xFFFF#16 = none ∧ decodeWord 0xFF65#16 = some (.ldVxMem 0xF#4) := by decide
theorem test_hyp_StepRunsDecodedInstruction :
    (∃ t, Executes (at200 0x6A42) 0x6A42#16 ∧ decodeWord 0x6A42#16 = some (.ldVxKk 0xA#4 0x42#8) ∧
      exec (.ldVxKk 0xA#4 0x42#8) (AtDispatch (at200 0x6A42)) = .next t ∧ t.faultCause = .none) ∧
    ∃ t, Executes (at200 0x00EE) 0x00EE#16 ∧ decodeWord 0x00EE#16 = some (.ret 0#4) ∧
      exec (.ret 0#4) (AtDispatch (at200 0x00EE)) = .next t ∧ t.faultCause = .stackUnderflow :=
  ⟨⟨_, executes_of_runs (by decide), by decide, rfl, by decide⟩,
    ⟨_, executes_of_runs (by decide), by decide, rfl, by decide⟩⟩
theorem test_hyp_UnmatchedWordIsNoOp :
    Executes (at200 0x8008) 0x8008#16 ∧ Executes (strict.withFetchWord 16 0x8008) 0x8008#16 ∧
      decodeWord 0x8008#16 = none :=
  ⟨executes_of_runs (by decide), executes_of_runs (by decide), by decide⟩
theorem test_hyp_HaltedStepOnlyClearsOutputs : State.reset.loaded = false ∧ faulted.faultCause ≠ .none := by decide
theorem test_hyp_TickTakesWholeTicks :
    (at200 0x6000).halted = false ∧ ∃ t, step (at200 0x6000) = .next t ∧ t.faultCause = .none :=
  ⟨by decide, _, rfl, by decide⟩
/-- Both disjuncts of each half: a timer that falls, and one that its instruction raises. -/
theorem test_hyp_TimersFallUnlessSet :
    (∃ t, step (at200 0x6000) = .next t ∧ t.dt.toNat ≤ start.dt.toNat) ∧
    after (start.setReg 0 5) 0xF015 (fun t => t.dt == 5) = true ∧
    after (start.setReg 0 5) 0xF018 (fun t => t.st == 5) = true :=
  ⟨⟨_, rfl, by decide⟩, by decide, by decide⟩
theorem test_hyp_EndOfStepOutputs :
    (∃ t, Executes (at200 0x00E0) 0x00E0#16 ∧ step (at200 0x00E0) = .next t ∧ t.faultCause = .none ∧
      t.displayUpdated = true) ∧
    ∃ t, Executes (at200 0xF40A) 0xF40A#16 ∧ step (at200 0xF40A) = .next t ∧ t.faultCause = .none ∧
      t.awaitKey = true :=
  ⟨⟨_, executes_of_runs (by decide), rfl, by decide, by decide⟩,
    ⟨_, executes_of_runs (by decide), rfl, by decide, by decide⟩⟩
/-- The bounds where the clauses meet: 0xFFF, 0x201, 0xFFE, and 0x201 without ALIGN_CHECK. -/
theorem test_hyp_FetchChecksBoundsThenAlignment :
    start.halted = false ∧ (0xFFF#16).toNat + 1 > 0xFFF ∧ (0x201#16).toNat + 1 ≤ 0xFFF ∧
    start.config.alignCheck = true ∧ (0x201#16).getLsbD 0 = true ∧ PcValid { start with pc := 0xFFE } ∧
    PcValid { startWith { defaultConfig with alignCheck := false } with pc := 0x201 } :=
  ⟨by decide, by decide, by decide, by decide, by decide, ⟨by decide, by decide⟩, ⟨by decide, by decide⟩⟩
theorem test_hyp_FaultingStepWritesOnlyItsReport :
    (at200 0x00EE).faultCause = .none ∧ ∃ t, step (at200 0x00EE) = .next t ∧ t.faultCause ≠ .none :=
  ⟨by decide, _, rfl, by decide⟩
/-- One instruction for every cause an instruction raises, and one that raises none. -/
theorem test_hyp_EachInstructionRaisesItsOwnCause :
    sat (exec (.call 0xABC#12) { start with sp := 16 }) (fun t => t.faultCause == .stackOverflow) = true ∧
    sat (exec (.ret 0#4) start) (fun t => t.faultCause == .stackUnderflow) = true ∧
    sat (exec (.ldBVx 0#4) { start with i := 0xFFE }) (fun t => t.faultCause == .memBounds) = true ∧
    sat (exec (.ldMemVx 0xF#4) { start with i := 0xFF1 }) (fun t => t.faultCause == .memBounds) = true ∧
    sat (exec (.ldVxMem 0#4) { start with i := 0x1000 }) (fun t => t.faultCause == .memBounds) = true ∧
    sat (exec (.drw 0#4 1#4 3#4) { start with i := 0xFFE }) (fun t => t.faultCause == .memBounds) = true ∧
    sat (exec (.sys 0#12) strict) (fun t => t.faultCause == .illegalInstruction) = true ∧
    sat (exec (.jp 0#12) start) (fun t => t.faultCause == .none) = true := by decide
theorem test_hyp_FaultReportIsSticky :
    faulted.faultCause ≠ .none ∧ (∃ t, transact .step faulted = .next t) ∧ (∃ t, transact (.load [0]) faulted = .next t) ∧
    (∃ t, transact .loadUnreadable faulted = .next t) ∧ (∃ t, transact (.advanceTime 100) faulted = .next t) ∧
    ∃ t, transact (.setKey 15 true) faulted = .next t :=
  ⟨by decide, ⟨_, rfl⟩, ⟨_, rfl⟩, ⟨_, rfl⟩, ⟨_, rfl⟩, ⟨_, rfl⟩⟩
/-- The invariant holds of a state that runs and of a state that has faulted, and both step. -/
theorem test_hyp_StepKeepsInv :
    Inv (at200 0x6A42) ∧ (∃ t, step (at200 0x6A42) = .next t) ∧ Inv faulted ∧ ∃ t, step faulted = .next t :=
  ⟨⟨by decide, ⟨by decide, by decide⟩, fun h => absurd (by decide) h⟩, ⟨_, rfl⟩,
    ⟨by decide, ⟨by decide, ⟨by decide, by decide⟩, by decide, by decide⟩, fun _ => ⟨by decide, by decide⟩⟩, ⟨_, rfl⟩⟩
theorem test_hyp_TransactionsKeepInv :
    Inv (at200 0x6A42) ∧ (∃ t, transact (.load [0x12, 0x00]) (at200 0x6A42) = .next t) ∧
    ∃ t, transact (.setKey 0 true) (at200 0x6A42) = .next t :=
  ⟨test_hyp_StepKeepsInv.1, ⟨_, rfl⟩, ⟨_, rfl⟩⟩
theorem test_hyp_StepKeepsConfigKeysLoaded : ∃ t, step (at200 0x6A42) = .next t := ⟨_, rfl⟩
/-- The addresses beside the font, and the last one. -/
theorem test_hyp_ResetPcAndMemory :
    (80 < 0x1000 ∧ ¬(defaultConfig.fontBase.val ≤ 80 ∧ 80 < defaultConfig.fontBase.val + 80)) ∧
    (0xFFF < 0x1000 ∧ ¬(defaultConfig.fontBase.val ≤ 0xFFF ∧ 0xFFF < defaultConfig.fontBase.val + 80)) := by decide
theorem test_hyp_LoadWritesProgram :
    (List.replicate 3584 (0#8)).length ≤ 3584 ∧ 3583 < (List.replicate 3584 (0#8)).length ∧
    3584 < (List.replicate 3585 (0#8)).length := by
  rw [List.length_replicate, List.length_replicate]
  omega
theorem test_hyp_AdvanceTimeAndSetKey : 15 < 16 ∧ 16 ≤ 16 ∧ 0 ≠ 15 := by decide
theorem test_hyp_SysIsNoOp : start.config.strictDecode = false ∧ strict.config.strictDecode = true := by decide
theorem test_hyp_RetPopsPc :
    (State.sp { start with sp := 1 }).val = (0 : Fin 16).val + 1 ∧
    (State.sp { start with sp := 16 }).val = (15 : Fin 16).val + 1 ∧ start.sp.val = 0 := by decide
theorem test_hyp_CallPushesReturnAddress :
    start.sp.val = (0 : Fin 16).val ∧ (State.sp { start with sp := 15 }).val = (15 : Fin 16).val ∧
    (0 : Fin 16) ≠ 15 ∧ (State.sp { start with sp := 16 }).val = 16 := by decide
theorem test_hyp_ReturnUndoesCall :
    (State.sp { start with sp := 15 }).val < 16 ∧ ∃ t, exec (.call 0x300#12) { start with sp := 15 } = .next t :=
  ⟨by decide, _, rfl⟩
theorem test_hyp_JpSetsPc :
    start.halted = false ∧ 0xFFF#12 = 0xFFF#12 ∧ 0x201#12 ≠ 0xFFF#12 ∧ (0x201#12).getLsbD 0 = true ∧
    start.config.alignCheck = true ∧ start.pc.toNat = (0x200#12).toNat := by decide
theorem test_hyp_JumpToSelfLoopsUnharmed :
    Executes (at200 0x1200) (0x1#4 ++ 0x200#12) ∧ (at200 0x1200).pc.toNat = (0x200#12).toNat :=
  ⟨executes_of_runs (by decide), by decide⟩
/-- x ≠ F, the hypothesis of the result clauses; and the flag is one of the registers too. -/
theorem test_hyp_AddSetsCarry : (0x1#4 : Reg) ≠ Reg.flag ∧ (0xE#4 : Reg) ≠ Reg.flag ∧ (0xF#4 : Reg) = Reg.flag := by decide
theorem test_hyp_SubSetsNoBorrow : (0x0#4 : Reg) ≠ Reg.flag ∧ (0xE#4 : Reg) ≠ Reg.flag := by decide
theorem test_hyp_SubnReversesOperands : (0x0#4 : Reg) ≠ Reg.flag ∧ (0xE#4 : Reg) ≠ Reg.flag := by decide
theorem test_hyp_ShiftsByOne :
    (start.config.shiftSource = .vy ∧ 0#8 = start.reg 2) ∧
    ((startWith { defaultConfig with shiftSource := .vx }).config.shiftSource = .vx ∧
      0#8 = (startWith { defaultConfig with shiftSource := .vx }).reg 1) ∧ (0x1#4 : Reg) ≠ Reg.flag := by decide
theorem test_hyp_RndMasksFreeDraw : (0x0F#8).getLsbD 4 = false ∧ (0x00#8).getLsbD 0 = false := by decide
theorem test_hyp_BcdStoresDigits : (0xFFD#16).toNat + 2 ≤ 0xFFF ∧ (0xFFE#16).toNat + 2 > 0xFFF := by decide
theorem test_hyp_DumpStoresRegisters :
    (0xFF0#16).toNat + (0xF#4).toNat ≤ 0xFFF ∧ (0xF#4).toNat ≤ (0xF#4).toNat ∧
    (0xFF1#16).toNat + (0xF#4).toNat > 0xFFF := by decide
/-- A state to dump from. -/
def dumping : State := { start.setReg 0 7 with i := 0x300 }
theorem test_hyp_LoadReadsRegisters :
    (0xFF0#16).toNat + (0xF#4).toNat ≤ 0xFFF ∧ (0x2#4).toNat < (0x3#4).toNat ∧
    (0x1000#16).toNat + (0x0#4).toNat > 0xFFF ∧
    ∃ t u : State, exec (.ldMemVx 0x2#4) dumping = .next t ∧
      u.mem = t.mem ∧ u.config = t.config ∧ u.i = dumping.i ∧ u.reg 0 ≠ dumping.reg 0 :=
  ⟨by decide, by decide, by decide, _,
    { start with mem := (dumping.memWrite 0x300 [7, 0, 0]).mem, i := 0x300 }, rfl, by decide, rfl, rfl, by decide⟩
theorem test_hyp_DrwTogglesTouchedPixels :
    ((0x0#4 : Nibble) = 0 ∨ (0xFFFF#16).toNat + (0x0#4).toNat - 1 ≤ 0xFFF) ∧
    ((0x2#4 : Nibble) = 0 ∨ (0xFFE#16).toNat + (0x2#4).toNat - 1 ≤ 0xFFF) := by decide
/-- A pixel the sprite touches, set before, and one it does not touch. -/
theorem test_hyp_DrwTogglesTouchedPixels_pixels :
    DrawTouches { start with fb := start.fb.toggle 0 0 } 0 1 5 0 0 ∧
    FrameBuffer.pixel (start.fb.toggle 0 0) 0 0 = true ∧ ¬DrawTouches start 0 1 5 4 0 := by
  refine ⟨⟨by decide, by decide, by decide, by decide, 0xF0#8, by decide, by decide⟩, by decide, ?_⟩
  rintro ⟨-, -, -, -, b, hb, hbit⟩
  have : b = 0xF0#8 := Option.some.inj (hb.symm.trans (by decide))
  subst this
  exact absurd hbit (by decide)
theorem test_hyp_DrwBoundsAndZeroRows : 1 ≤ (0x3#4).toNat ∧ (0xFFE#16).toNat + (0x3#4).toNat - 1 > 0xFFF := by decide
/-- S6: the sprite row FF at column 60. -/
def at60 : State := { (bytesAt start 0x300 [0xFF]).setReg 0 60 with i := 0x300 }
theorem test_hyp_DrawsAreClipped :
    at60.faultCause = .none ∧ (at60.reg 0).toNat % 64 = 60 ∧
    ∃ t, exec (.drw 0 1 1) at60 = .next t ∧ t.faultCause = .none ∧ t.fb.pixel 60 0 ≠ at60.fb.pixel 60 0 :=
  ⟨by decide, by decide, _, rfl, by decide, by decide⟩
theorem test_hyp_DrawingTwiceRestores :
    ∃ t u w : State, start.faultCause = .none ∧ u.faultCause = .none ∧ exec (.drw 0 1 5) start = .next t ∧
      t.faultCause = .none ∧ u.fb = t.fb ∧ u.mem = start.mem ∧ u.config = start.config ∧ u.i = start.i ∧
      u.reg 0 = start.reg 0 ∧ u.reg 1 = start.reg 1 ∧ exec (.drw 0 1 5) u = .next w :=
  ⟨_, { start with fb := (start.drawn 0 1 5).1 }, _, by decide, by decide, rfl, by decide, rfl, rfl, rfl, rfl, rfl, rfl, rfl⟩
theorem test_hyp_DelayTimerReadAndSet :
    Executes (at200 0xF007) (0xF#4 ++ 0x0#4 ++ 0x07#8) ∧ Executes (at200 0xFF15) (0xF#4 ++ 0xF#4 ++ 0x15#8) :=
  ⟨executes_of_runs (by decide), executes_of_runs (by decide)⟩
theorem test_hyp_SoundTimerSet : Executes (at200 0xF018) (0xF#4 ++ 0x0#4 ++ 0x18#8) := executes_of_runs (by decide)
/-- One state for each case of a key index: below 16, and 0x15 for both values of KEY_OOR. -/
theorem test_hyp_SkipsOnKey :
    (((start.setReg 0 0xF).reg 0).toNat < 16 ∧ false = (start.setReg 0 0xF).keys.getLsbD ((start.setReg 0 0xF).reg 0).toNat) ∧
    (16 ≤ ((start.setReg 0 0x10).reg 0).toNat ∧ (start.setReg 0 0x10).config.keyOutOfRange = .notPressed) ∧
    (16 ≤ (((startWith { defaultConfig with keyOutOfRange := .lowNibble }).setReg 0 0x15).reg 0).toNat ∧
      (startWith { defaultConfig with keyOutOfRange := .lowNibble }).config.keyOutOfRange = .lowNibble) := by decide
theorem test_hyp_WaitForKeyTakesLowest :
    start.keys = 0 ∧ (15 < 16 ∧ (0x8000#16).getLsbD 15 = true ∧ ∀ j : Nat, j < 15 → (0x8000#16).getLsbD j = false) ∧
    Executes (at200 0xF40A) (0xF#4 ++ 0x4#4 ++ 0x0A#8) :=
  ⟨by decide, ⟨by decide, by decide, by decide⟩, executes_of_runs (by decide)⟩
theorem test_hyp_WaitForKeyHoldsUntilPressed :
    Executes (at200 0xF40A) (0xF#4 ++ 0x4#4 ++ 0x0A#8) ∧ (at200 0xF40A).keys = 0 ∧
    (3 < 16 ∧ (0x0028#16).getLsbD 3 = true ∧ ∀ l : Nat, l < 3 → (0x0028#16).getLsbD l = false) :=
  ⟨executes_of_runs (by decide), by decide, by decide, by decide, by decide⟩
theorem test_hyp_OnlyStoresChangeMemory :
    (∃ t, exec (.ldBVx 3) { start.setReg 3 0x9C with i := 0x300 } = .next t ∧
      t.readByte 0x302 ≠ State.readByte { start.setReg 3 0x9C with i := 0x300 } 0x302) ∧
    ∃ t, exec (.ldMemVx 3) { start.setReg 3 0x9C with i := 0x300 } = .next t ∧
      t.readByte 0x303 ≠ State.readByte { start.setReg 3 0x9C with i := 0x300 } 0x303 :=
  ⟨⟨_, rfl, by decide⟩, ⟨_, rfl, by decide⟩⟩
theorem test_hyp_OnlyListedInstructionsChangeVf :
    (∃ t, exec (.addVxVy 1 2) ((start.setReg 1 0xC8).setReg 2 0x64) = .next t ∧ t.reg Reg.flag ≠ 0) ∧
    ∃ t, exec (.ldVxKk Reg.flag 7) start = .next t ∧ t.reg Reg.flag ≠ start.reg Reg.flag :=
  ⟨⟨_, rfl, by decide⟩, ⟨_, rfl, by decide⟩⟩
/-- Each special register, written by one of its instructions. -/
theorem test_hyp_SpecialRegisterWriters :
    sat (exec (.ldI 0x2F0#12) start) (fun t => t.i != start.i) = true ∧
    sat (exec (.ldMemVx 0) start) (fun t => t.i != start.i) = true ∧
    sat (exec (.call 0x300#12) start) (fun t => t.stack != start.stack && t.sp != start.sp) = true ∧
    sat (exec (.ldDtVx 0) (start.setReg 0 5)) (fun t => t.dt != start.dt) = true ∧
    sat (exec (.ldStVx 0) (start.setReg 0 5)) (fun t => t.st != start.st) = true ∧
    sat (exec (.drw 0 1 5) start) (fun t => t.fb != start.fb) = true ∧
    sat (exec (.rnd 0 0) start) (fun t => t.draws != start.draws) = true := by decide
theorem test_hyp_OnlyJumpsMakePcOdd :
    start.pc.getLsbD 0 = false ∧ ∃ t, exec (.jp 0x201#12) start = .next t ∧ t.pc.getLsbD 0 = true :=
  ⟨by decide, _, rfl, by decide⟩

end Sys2Proof.Tests
end

/-!
PROOF. Everything a step can do, said once: the stages around exec (30_encoding.md R100) joined with what exec can do
(exec_cases).
-/
namespace Sys2Proof.Proofs

open Sys2Proof.Machine Sys2Proof.Safety

/-- The states a step can answer, with the stage that decided it. -/
inductive StepsTo (s : State) : State → Prop
  /-- A halted core does stage 0 alone (R101). -/
  | halted (hh : s.halted = true) : StepsTo s s.clearOutputs
  /-- Stage 1 raised a fault (R102). -/
  | fetchFault (c : FaultCause) (hh : s.halted = false) (hf : s.fetchFault = some c) :
    StepsTo s (s.clearOutputs.raise c s.pc)
  /-- An unmatched word under STRICT_DECODE (R98). -/
  | illegalWord (w : Word) (hx : Executes s w) (hd : decodeWord w = none) (hs : s.config.strictDecode = true) :
    StepsTo s (s.clearOutputs.raise .illegalInstruction s.pc)
  /-- An unmatched word that runs as a no-op (R98). -/
  | skippedWord (w : Word) (hx : Executes s w) (hd : decodeWord w = none) (hs : s.config.strictDecode = false) :
    StepsTo s ((AtDispatch s).advance.endStep false)
  /-- The instruction raised its fault, and the tick is discarded (60_exceptions.md R243). -/
  | raised (w : Word) (i : Instr) (u : State) (hx : Executes s w) (hd : decodeWord w = some i)
    (he : exec i (AtDispatch s) = .next u) (hr : Raises i (AtDispatch s) u) :
    StepsTo s (s.clearOutputs.raise u.faultCause u.faultAddr)
  /-- The instruction completed, and stage 5 ends the step. -/
  | completed (w : Word) (i : Instr) (u : State) (hx : Executes s w) (hd : decodeWord w = some i)
    (he : exec i (AtDispatch s) = .next u) (hc : Completes i (AtDispatch s) u) :
    StepsTo s (u.endStep (waitsForKey i && s.keys == 0))

/-- Where PC may be fetched from, a core that is not halted executes the word of the two bytes it fetches. -/
theorem executes_of_pcValid {s : State} (hh : s.halted = false) (hp : PcValid s) :
    ∃ hi lo : Byte, s.clearOutputs.fetchBytes = [hi, lo] ∧ Executes s (wordOf hi lo) := by
  have hpc := hp.1
  exact ⟨_, _, State.fetchBytes_eq _, hh, hp, _, _, s.readByte_some (by omega), s.readByte_some (by omega), rfl⟩

theorem decode_of_decodeWord_none {hi lo : Byte} (h : decodeWord (wordOf hi lo) = none) :
    decode [hi, lo] = .error (.unmatched (wordOf hi lo)) := by rw [decode_pair, h]

theorem decode_of_decodeWord_some {hi lo : Byte} {i : Instr} (h : decodeWord (wordOf hi lo) = some i) :
    decode [hi, lo] = .ok (i, []) := by rw [decode_pair, h]

/-- A raised fault records a cause. -/
theorem raises_faultCause_ne_none {i : Instr} {s t : State} (h : Raises i s t) : t.faultCause ≠ .none := by
  cases h <;> simp

theorem fetchFault_ne_none {s : State} {c : FaultCause} (h : s.fetchFault = some c) : c ≠ .none := by
  rcases State.fetchFault_eq_some h with ⟨rfl, -⟩ | ⟨rfl, -⟩ <;> simp

/-- Stages 2 to 5 of a core that executes an unmatched word. -/
theorem StepsTo.of_unmatched {s t : State} {hi lo : Byte} (hx : Executes s (wordOf hi lo))
    (hd : decodeWord (wordOf hi lo) = none) (h : runFetched s.clearOutputs [hi, lo] = .next t) : StepsTo s t := by
  have hfc : s.faultCause = .none := (State.halted_eq_false.mp hx.1).2
  rw [runFetched, decode_of_decodeWord_none hd, dispatch, finish_next] at h
  cases h
  rcases (AtDispatch s).unmatched_cases with ⟨hs, hu⟩ | ⟨hs, hu⟩ <;> rw [AtDispatch] at hu <;> rw [hu]
  · rw [if_pos (by simpa using hfc)]
    exact .skippedWord _ hx hd hs
  · rw [if_neg (by simp)]
    exact .illegalWord _ hx hd hs

/-- Stages 2 to 5 of a core that executes an instruction. -/
theorem StepsTo.of_instr {s t : State} {hi lo : Byte} {i : Instr} (hx : Executes s (wordOf hi lo))
    (hd : decodeWord (wordOf hi lo) = some i) (h : runFetched s.clearOutputs [hi, lo] = .next t) : StepsTo s t := by
  have hfc : s.faultCause = .none := (State.halted_eq_false.mp hx.1).2
  rw [runFetched, decode_of_decodeWord_some hd, dispatch] at h
  cases he : exec i s.clearOutputs.tick with
  | fault r => cases r
  | refused r => rw [he] at h; cases h
  | next u =>
    rw [he, finish_next] at h
    cases h
    rcases exec_cases he with hr | hc
    · rw [if_neg (raises_faultCause_ne_none hr)]
      exact .raised _ i u hx hd he hr
    · rw [if_pos (by simpa [hc.faultCause] using hfc)]
      exact .completed _ i u hx hd he hc

/-- A step answers one of these states and no other. -/
theorem stepsTo_of_step {s t : State} (h : step s = .next t) : StepsTo s t := by
  rcases step_cases s with ⟨hh, hs⟩ | ⟨hh, c, hf, hs⟩ | ⟨hh, hp, hs⟩ <;> rw [hs] at h
  · cases h
    exact .halted hh
  · cases h
    exact .fetchFault c hh hf
  · obtain ⟨hi, lo, hb, hx⟩ := executes_of_pcValid hh hp
    rw [hb] at h
    cases hd : decodeWord (wordOf hi lo) with
    | none => exact .of_unmatched hx hd h
    | some i => exact .of_instr hx hd h

end Sys2Proof.Proofs

/-!
PROOF. The statements of 10_state.md: the tick and the timers (R36, R38), and PC and memory at reset (R28, R63).
-/
namespace Sys2Proof.Proofs

open Sys2Proof.Machine Sys2Proof.Safety

/-! ### The tick -/

theorem timerAfter_zero (timer : Byte) : timerAfter timer 0 = timer :=
  BitVec.eq_of_toNat_eq (by rw [timerAfter_toNat, Nat.sub_zero])

/-- Ticks add up, because the floor at 0 does. -/
theorem timerAfter_timerAfter (timer : Byte) (m n : Nat) :
    timerAfter (timerAfter timer m) n = timerAfter timer (m + n) :=
  BitVec.eq_of_toNat_eq (by simp only [timerAfter_toNat, Nat.sub_sub])

theorem singleTick_eq_timerAfter (timer : Byte) : singleTick timer = timerAfter timer 1 := by
  apply BitVec.eq_of_toNat_eq
  rw [timerAfter_toNat, singleTick]
  split
  · subst timer; rfl
  · bv_omega

/-- That many single ticks are the ticks taken at once. -/
theorem singleTick_iterate (n : Nat) (timer : Byte) : singleTick^[n] timer = timerAfter timer n := by
  induction n with
  | zero => exact (timerAfter_zero timer).symm
  | succ n ih => rw [Function.iterate_succ_apply', ih, singleTick_eq_timerAfter, timerAfter_timerAfter]

theorem tick_dt_toNat (s : State) : s.tick.dt.toNat = s.dt.toNat - s.tacc / s.config.tickUnits.val :=
  timerAfter_toNat ..

theorem tick_st_toNat (s : State) : s.tick.st.toNat = s.st.toNat - s.tacc / s.config.tickUnits.val :=
  timerAfter_toNat ..

/-- Whole units taken out of a sum in two pieces, or at once. -/
theorem div_add_mod_add_div (a e u : Nat) (hu : 0 < u) : a / u + (a % u + e) / u = (a + e) / u := by
  conv_rhs => rw [← Nat.div_add_mod a u, Nat.add_assoc, Nat.mul_add_div hu]

/-- The tick does not depend on how the time is cut into pieces (R38). -/
theorem tick_advanceTime_tick (s : State) (e : Nat) : (s.tick.advanceTime e).tick = (s.advanceTime e).tick := by
  have hticks : s.ticks + (s.tick.advanceTime e).ticks = (s.advanceTime e).ticks :=
    div_add_mod_add_div s.tacc e _ s.config.tickUnits.pos
  have htacc : (s.tick.advanceTime e).tick.tacc = (s.advanceTime e).tick.tacc := Nat.mod_add_mod ..
  have hdt : (s.tick.advanceTime e).tick.dt = (s.advanceTime e).tick.dt :=
    (timerAfter_timerAfter ..).trans (by rw [hticks]; rfl)
  have hst : (s.tick.advanceTime e).tick.st = (s.advanceTime e).tick.st :=
    (timerAfter_timerAfter ..).trans (by rw [hticks]; rfl)
  calc (s.tick.advanceTime e).tick
    _ = { (s.advanceTime e).tick with
          tacc := (s.tick.advanceTime e).tick.tacc, dt := (s.tick.advanceTime e).tick.dt
          st := (s.tick.advanceTime e).tick.st } := rfl
    _ = (s.advanceTime e).tick := by rw [htacc, hdt, hst]

/-! ### The timers through a step -/

/-- TACC and the timers are as they were. -/
def KeepsTimers (s t : State) : Prop := t.tacc = s.tacc ∧ t.dt = s.dt ∧ t.st = s.st

/-- The step ticked, and each timer is the ticked one or the value its instruction set. -/
def TicksTimers (s t : State) : Prop :=
  t.tacc = s.tick.tacc ∧
  (t.dt = s.tick.dt ∨ ∃ w x, Executes s w ∧ decodeWord w = some (.ldDtVx x) ∧ t.dt = s.reg x) ∧
  (t.st = s.tick.st ∨ ∃ w x, Executes s w ∧ decodeWord w = some (.ldStVx x) ∧ t.st = s.reg x)

/-- An instruction that completes after the tick leaves the ticked TACC and timers but for the timer it sets. -/
theorem ticksTimers_of_completes {s u : State} {w : Word} {i : Instr} (hx : Executes s w)
    (hd : decodeWord w = some i) (he : exec i (AtDispatch s) = .next u) (hc : Completes i (AtDispatch s) u)
    (b : Bool) : TicksTimers s (u.endStep b) := by
  refine ⟨hc.tacc, hc.dt.imp_right ?_, hc.st.imp_right ?_⟩
  · rintro ⟨x, rfl⟩
    cases he
    exact ⟨w, x, hx, hd, rfl⟩
  · rintro ⟨x, rfl⟩
    cases he
    exact ⟨w, x, hx, hd, rfl⟩

/-- A step does nothing to the timers, being halted or faulting, or it ticks them. -/
theorem StepsTo.timers {s t : State} (h : StepsTo s t) :
    KeepsTimers s t ∧ (s.halted = true ∨ t.faultCause ≠ .none) ∨ TicksTimers s t := by
  cases h with
  | halted hh => exact .inl ⟨⟨rfl, rfl, rfl⟩, .inl hh⟩
  | fetchFault c hh hf => exact .inl ⟨⟨rfl, rfl, rfl⟩, .inr (fetchFault_ne_none hf)⟩
  | illegalWord w hx hd hs => exact .inl ⟨⟨rfl, rfl, rfl⟩, .inr (by simp)⟩
  | raised w i u hx hd he hr => exact .inl ⟨⟨rfl, rfl, rfl⟩, .inr (by simpa using raises_faultCause_ne_none hr)⟩
  | skippedWord w hx hd hs => exact .inr ⟨rfl, .inl rfl, .inl rfl⟩
  | completed w i u hx hd he hc => exact .inr (ticksTimers_of_completes hx hd he hc _)

/-- Settles O8: t ticks at once are t single ticks, whole ticks add up over pieces of time, and a step that executes without
a fault is one that ticks. -/
theorem tickTakesWholeTicks : Obligations.TickTakesWholeTicks := by
  refine ⟨fun s => ?_, fun s d e => ?_, fun s t hh h hf => ?_⟩
  · exact ⟨rfl, rfl, tick_dt_toNat s, tick_st_toNat s, (singleTick_iterate ..).symm, (singleTick_iterate ..).symm⟩
  · rw [tick_advanceTime_tick]
    simp only [State.advanceTime, Nat.add_assoc]
  · rcases (stepsTo_of_step h).timers with ⟨-, hidle⟩ | hticks
    · simp [hh, hf] at hidle
    · exact hticks

/-- Settles O9: a step leaves the timers alone or ticks them, and a tick only lowers them. -/
theorem timersFallUnlessSet : Obligations.TimersFallUnlessSet := by
  refine ⟨fun s => ⟨tick_dt_toNat s, tick_st_toNat s⟩, fun s t h => ?_⟩
  rcases (stepsTo_of_step h).timers with ⟨⟨-, hdt, hst⟩, -⟩ | ⟨-, hdt, hst⟩
  · exact ⟨.inl (by rw [hdt]), .inl (by rw [hst])⟩
  · refine ⟨hdt.imp (fun hdt => ?_) ?_, hst.imp (fun hst => ?_) ?_⟩
    · rw [hdt, tick_dt_toNat]; exact Nat.sub_le ..
    · rintro ⟨w, x, hx, hd, -⟩; exact ⟨w, x, hx, hd⟩
    · rw [hst, tick_st_toNat]; exact Nat.sub_le ..
    · rintro ⟨w, x, hx, hd, -⟩; exact ⟨w, x, hx, hd⟩

/-! ### Reset -/

/-- The reset contents at the font's addresses are the font. -/
theorem resetByte_font (c : Config) (j : Fin 80) : resetByte c (c.fontBase.val + j.val) = c.fontData.get j := by
  rw [resetByte, if_pos (Nat.le_add_right ..), Nat.add_sub_cancel_left]
  simp [Vector.get_eq_getElem]

/-- The reset contents beside the font are 0. -/
theorem resetByte_eq_zero {c : Config} {a : Nat} (h : ¬(c.fontBase.val ≤ a ∧ a < c.fontBase.val + 80)) :
    resetByte c a = 0 := by
  rw [resetByte]
  split
  · exact List.getD_eq_default _ _ (by rw [Vector.length_toList]; omega)
  · rfl

theorem construct_readByte (c : Config) {a : Nat} (h : a < 0x1000) :
    (State.construct c).readByte a = some (resetByte c a) := State.readByte_some _ h

/-- Settles O20: reset memory lists no cell, so every address reads as the reset contents. -/
theorem resetPcAndMemory : Obligations.ResetPcAndMemory := by
  refine fun c => ⟨rfl, fun j => ?_, fun a ha hfont => ?_⟩
  · have hbase := c.fontBase.isLt
    rw [construct_readByte c (by omega), resetByte_font]
  · rw [construct_readByte c ha, resetByte_eq_zero hfont]

end Sys2Proof.Proofs

/-!
PROOF. The statement of 20_memory.md: a step that raises a fault writes its report and nothing else (R72).
-/
namespace Sys2Proof.Proofs

open Sys2Proof.Machine Sys2Proof.Safety

/-- A step from a state with no fault recorded leaves none, or is the raise on the state before the step, whichever stage
raised it (60_exceptions.md R243). -/
theorem StepsTo.faultCause_eq_none_or_eq_raise {s t : State} (h : StepsTo s t) (hs : s.faultCause = .none) :
    t.faultCause = .none ∨ t = s.raise t.faultCause t.faultAddr := by
  cases h with
  | halted hh => exact .inl hs
  | skippedWord w hx hd hs' => exact .inl hs
  | completed w i u hx hd he hc => exact .inl (hc.faultCause.trans hs)
  | fetchFault c hh hf => exact .inr rfl
  | illegalWord w hx hd hs' => exact .inr rfl
  | raised w i u hx hd he hr => exact .inr rfl

/-- Settles O13: of all that a step can answer, only a raise on the state before it records a fault. -/
theorem faultingStepWritesOnlyItsReport : Obligations.FaultingStepWritesOnlyItsReport := fun _ _ hs h hf =>
  ((stepsTo_of_step h).faultCause_eq_none_or_eq_raise hs).resolve_left hf

end Sys2Proof.Proofs

/-!
PROOF. The statements of 30_encoding.md: the round trip of decode and encode (R94, R96), the unmatched words (R97), and the
step around exec (R99, R100).
-/
namespace Sys2Proof.Proofs

open Sys2Proof.Machine Sys2Proof.Safety

/-! ### Decode after encode -/

/-- The word of a well-formed instruction decodes to it, one case a format and group of R94. -/
theorem decodeWord_encode {i : Instr} (h : i.wf = true) : decodeWord (encode i) = some i := by
  cases i
  case sys nnn =>
    obtain ⟨hE0, hEE⟩ : nnn.extractLsb' 0 8 ≠ 0xE0#8 ∧ nnn.extractLsb' 0 8 ≠ 0xEE#8 := by
      simpa [Instr.wf, sysFieldOk] using h
    simp [encode, decodeWord, decodeGroup0, hE0, hEE]
  case cls | ret => simp [encode, decodeWord, decodeGroup0]
  case jp | call | ldI | jpV0 => simp [encode, decodeWord]
  case seVxKk | sneVxKk | ldVxKk | addVxKk | rnd => simp [encode, decodeWord]
  case seVxVy | sneVxVy | drw => simp [encode, decodeWord]
  case ldVxVy | orVxVy | andVxVy | xorVxVy | addVxVy | subVxVy | shrVxVy | subnVxVy | shlVxVy =>
    simp [encode, decodeWord, decodeGroup8]
  case skp | sknp => simp [encode, decodeWord, decodeGroupE]
  case ldVxDt | ldVxK | ldDtVx | ldStVx | addIVx | ldFVx | ldBVx | ldMemVx | ldVxMem =>
    simp [encode, decodeWord, decodeGroupF]

/-- Decode of two bytes and what follows them is decode of their word. -/
theorem decode_bytes_append {w : Word} {i : Instr} (h : decodeWord w = some i) (rest : List Byte) :
    decode ([w.extractLsb' 8 8, w.extractLsb' 0 8] ++ rest) = .ok (i, rest) := by
  simp only [List.cons_append, List.nil_append, decode, wordOf_bytes, h]

/-- Settles O2: the two bytes make the instruction's word again, and the word decodes to the instruction. -/
theorem decodeOfEncode : Obligations.DecodeOfEncode := fun _ rest h =>
  decode_bytes_append (decodeWord_encode h) rest

/-- Settles O1: each of the written-out words lies in its row of the decode tree. -/
theorem specWordsDecode : Obligations.SpecWordsDecode := by
  unfold Obligations.SpecWordsDecode
  decide

/-! ### Encode after decode -/

theorem encodeNNN_nnnOf {w : Word} {op : Nibble} (hop : opOf w = op) : encodeNNN op (nnnOf w) = w :=
  hop ▸ encodeNNN_fields w

theorem encodeXKK_xOf {w : Word} {op : Nibble} {kk : Byte} (hop : opOf w = op) (hkk : kkOf w = kk) :
    encodeXKK op (xOf w) kk = w :=
  hop ▸ hkk ▸ encodeXKK_fields w

theorem encodeXY_xOf_yOf {w : Word} {op sub : Nibble} (hop : opOf w = op) (hn : nOf w = sub) :
    encodeXY op (xOf w) (yOf w) sub = w :=
  hop ▸ hn ▸ encodeXY_fields w

theorem extractLsb'_nnnOf (w : Word) : (nnnOf w).extractLsb' 0 8 = kkOf w := by
  rw [← kkOf_encodeNNN (opOf w), encodeNNN_fields]

/-- The instruction is well-formed and the word is its encoding. -/
def Encodes (w : Word) (i : Instr) : Prop := i.wf = true ∧ encode i = w

theorem encodes_of_decodeGroup0 {w : Word} {i : Instr} (hop : opOf w = 0x0#4) (h : decodeGroup0 w = some i) :
    Encodes w i := by
  rw [decodeGroup0] at h
  split_ifs at h with hE0 hEE <;> cases h
  · exact ⟨rfl, encodeXKK_xOf hop hE0⟩
  · exact ⟨rfl, encodeXKK_xOf hop hEE⟩
  · exact ⟨by simp [Instr.wf, sysFieldOk, extractLsb'_nnnOf, hE0, hEE], encodeNNN_nnnOf hop⟩

theorem encodes_of_decodeGroup8 {w : Word} {i : Instr} (hop : opOf w = 0x8#4) (h : decodeGroup8 w = some i) :
    Encodes w i := by
  rw [decodeGroup8] at h
  split at h <;> cases h <;> exact ⟨rfl, encodeXY_xOf_yOf hop ‹_›⟩

theorem encodes_of_decodeGroupE {w : Word} {i : Instr} (hop : opOf w = 0xE#4) (h : decodeGroupE w = some i) :
    Encodes w i := by
  rw [decodeGroupE] at h
  split at h <;> cases h <;> exact ⟨rfl, encodeXKK_xOf hop ‹_›⟩

theorem encodes_of_decodeGroupF {w : Word} {i : Instr} (hop : opOf w = 0xF#4) (h : decodeGroupF w = some i) :
    Encodes w i := by
  rw [decodeGroupF] at h
  split at h <;> cases h <;> exact ⟨rfl, encodeXKK_xOf hop ‹_›⟩

/-- Settles O3: every arm of the decode tree takes an instruction's fields from the word it encodes. -/
theorem encodeOfDecode : Obligations.EncodeOfDecode := by
  intro w i h
  change Encodes w i
  rw [decodeWord] at h
  split at h
  case h_1 hop => exact encodes_of_decodeGroup0 hop h
  case h_9 hop => exact encodes_of_decodeGroup8 hop h
  case h_15 hop => exact encodes_of_decodeGroupE hop h
  case h_16 => exact encodes_of_decodeGroupF (by simp only [imp_false] at *; bv_omega) h
  case h_2 | h_3 | h_11 | h_12 => cases h; exact ⟨rfl, encodeNNN_nnnOf ‹_›⟩
  case h_4 | h_5 | h_7 | h_8 | h_13 => cases h; exact ⟨rfl, encodeXKK_xOf ‹_› rfl⟩
  case h_6 | h_10 | h_14 => cases h; exact ⟨rfl, encodeXY_xOf_yOf ‹_› rfl⟩

/-! ### The unmatched words -/

theorem decodeGroup8_eq_none {w : Word} :
    decodeGroup8 w = none ↔ nOf w ∈ [0x8#4, 0x9#4, 0xA#4, 0xB#4, 0xC#4, 0xD#4, 0xF#4] := by
  rw [decodeGroup8]
  split
  case h_10 => simp only [imp_false, List.mem_cons, List.not_mem_nil, or_false, true_iff] at *; bv_omega
  all_goals simp [*]

theorem decodeGroupE_eq_none {w : Word} : decodeGroupE w = none ↔ kkOf w ∉ [0x9E#8, 0xA1#8] := by
  rw [decodeGroupE]
  split <;> simp_all

theorem decodeGroupF_eq_none {w : Word} :
    decodeGroupF w = none ↔
      kkOf w ∉ [0x07#8, 0x0A#8, 0x15#8, 0x18#8, 0x1E#8, 0x29#8, 0x33#8, 0x55#8, 0x65#8] := by
  rw [decodeGroupF]
  split <;> simp_all

theorem decodeGroup0_ne_none (w : Word) : decodeGroup0 w ≠ none := by
  rw [decodeGroup0]
  split_ifs <;> simp

/-- Only the groups 8, E and F of the decode tree can reject a word. -/
theorem decodeWord_eq_none {w : Word} :
    decodeWord w = none ↔
      (opOf w = 0x8#4 ∧ decodeGroup8 w = none) ∨ (opOf w = 0xE#4 ∧ decodeGroupE w = none) ∨
      (opOf w = 0xF#4 ∧ decodeGroupF w = none) := by
  rw [decodeWord]
  split
  case h_16 =>
    have hop : opOf w = 0xF#4 := by simp only [imp_false] at *; bv_omega
    simp [hop]
  all_goals simp [*, decodeGroup0_ne_none]

/-- Settles O4: the three groups that can reject a word, each with what it rejects. -/
theorem unmatchedWordsAreGroups8EF : Obligations.UnmatchedWordsAreGroups8EF := fun w => by
  rw [decodeWord_eq_none, decodeGroup8_eq_none, decodeGroupE_eq_none, decodeGroupF_eq_none]
  rfl

/-! ### Every step answers -/

/-- Every meaning answers a state: RET, CALL and Fx0A on both of their branches, the others on their one. -/
theorem exec_answers (i : Instr) (s : State) : ∃ t, exec i s = .next t := by
  cases i
  case ret | call | ldVxK =>
    simp only [exec, execRet, execCall, execLdVxK]
    split <;> exact ⟨_, rfl⟩
  all_goals exact ⟨_, rfl⟩

/-- The dispatch answers a state whatever the decoder answered (R98). -/
theorem dispatch_answers (s : State) (d : Except DecodeError (Instr × List Byte)) : ∃ t, dispatch s d = .next t := by
  cases d with
  | ok d => exact exec_answers d.1 s
  | error _ => exact ⟨_, rfl⟩

theorem runFetched_answers (s : State) (bytes : List Byte) : ∃ t, runFetched s bytes = .next t := by
  obtain ⟨t, ht⟩ := dispatch_answers s.tick (decode bytes)
  rw [runFetched, ht, finish_next]
  exact ⟨_, rfl⟩

theorem step_answers (s : State) : ∃ t, step s = .next t := by
  rcases step_cases s with ⟨-, hs⟩ | ⟨-, c, -, hs⟩ | ⟨-, -, hs⟩ <;> rw [hs]
  · exact ⟨_, rfl⟩
  · exact ⟨_, rfl⟩
  · exact runFetched_answers ..

/-- Settles O11: no stage of a step refuses or stops, and no meaning does. -/
theorem everyStepAnswersNext : Obligations.EveryStepAnswersNext := ⟨step_answers, exec_answers⟩

/-! ### The step around exec -/

/-- A core that executes a word runs stages 2 to 5 on its two bytes. -/
theorem step_of_executes {s : State} {w : Word} (hx : Executes s w) :
    ∃ hi lo : Byte, wordOf hi lo = w ∧ step s = runFetched s.clearOutputs [hi, lo] := by
  obtain ⟨hh, hp, hw⟩ := hx
  obtain ⟨hi, lo, hb, hword⟩ := State.fetchBytes_of_wordAtPc (s := s.clearOutputs) hw
  have hf : s.clearOutputs.fetchFault = none := State.fetchFault_eq_none.mpr hp
  refine ⟨hi, lo, hword, ?_⟩
  rw [step, runStep, if_neg (by simp [hh]), runActive, hf, hb]

/-- Settles O5: decode, dispatch and the end of the step on the bytes of the executed word. -/
theorem stepRunsDecodedInstruction : Obligations.StepRunsDecodedInstruction := by
  intro s t w i hx hd he
  obtain ⟨hi, lo, rfl, hs⟩ := step_of_executes hx
  rw [AtDispatch] at he
  rw [hs, runFetched, decode_of_decodeWord_some hd, dispatch, he, finish_next]
  rfl

/-- A step whose instruction records no fault is stage 5 on what exec answers. -/
theorem step_of_exec {s t : State} {w : Word} {i : Instr} (hx : Executes s w) (hd : decodeWord w = some i)
    (he : exec i (AtDispatch s) = .next t) (hf : t.faultCause = .none) :
    step s = .next (t.endStep (waitsForKey i && s.keys == 0)) := by
  rw [stepRunsDecodedInstruction s t w i hx hd he, if_pos hf]
  rfl

/-! ### The jump to itself -/

/-- The states differ in TACC, the timers, AWAIT_KEY and the per-step outputs alone. -/
def SameButTimersOutputs (s t : State) : Prop :=
  t = { s with
    tacc := t.tacc, dt := t.dt, st := t.st
    awaitKey := t.awaitKey, displayUpdated := t.displayUpdated, shouldBuzz := t.shouldBuzz }

theorem SameButTimersOutputs.trans {s t u : State} (hst : SameButTimersOutputs s t) (htu : SameButTimersOutputs t u) :
    SameButTimersOutputs s u := by
  rw [SameButTimersOutputs] at hst htu ⊢
  rw [hst] at htu
  exact htu

/-- What the fetch reads of a state is among what the relation keeps. -/
theorem SameButTimersOutputs.executes {s t : State} {w : Word} (h : SameButTimersOutputs s t) (hx : Executes s w) :
    Executes t w := by
  rw [h]
  exact hx

theorem SameButTimersOutputs.pc_eq {s t : State} (h : SameButTimersOutputs s t) : t.pc = s.pc := by
  rw [h]

/-- One step of a jump to its own address ticks and ends the step, PC included in what it leaves alone. -/
theorem step_jp_self {nnn : Addr} {s : State} (hx : Executes s (0x1#4 ++ nnn)) (hpc : s.pc.toNat = nnn.toNat) :
    step s = .next ((AtDispatch s).endStep false) := by
  have haddr : addr16 nnn = s.pc := BitVec.eq_of_toNat_eq (by rw [addr16, BitVec.toNat_setWidth_of_le (by decide), hpc])
  have he : exec (.jp nnn) (AtDispatch s) = .next (AtDispatch s) := by
    rw [exec, execJp, haddr]
    rfl
  exact step_of_exec hx (decodeWord_encode (i := .jp nnn) rfl) he (State.halted_eq_false.mp hx.1).2

/-- A run takes its first step and runs on from there. -/
theorem run_succ_of_step {M : Host.Core} {s t : M.State} (h : M.step s = .next t) (k : Nat) :
    M.run (k + 1) s = M.run k t := by
  rw [Host.Core.run, h]

/-- Settles O29, by induction on the number of steps: each step executes the jump again. -/
theorem jumpToSelfLoopsUnharmed : Obligations.JumpToSelfLoopsUnharmed := by
  intro nnn s hx hpc k
  induction k generalizing s with
  | zero => exact ⟨s, rfl, hx.1, rfl⟩
  | succ k ih =>
    have hstep : SameButTimersOutputs s ((AtDispatch s).endStep false) := rfl
    obtain ⟨t, hrun, hh, hsame⟩ := ih _ (hstep.executes hx) (hstep.pc_eq ▸ hpc)
    refine ⟨t, ?_, hh, hstep.trans hsame⟩
    exact (run_succ_of_step (M := core) (step_jp_self hx hpc) k).trans hrun

end Sys2Proof.Proofs

/-!
PROOF. The statements of 40_control_flow.md: the jump and where its target faults (R124), and the skips on an immediate
(R128, R130).
-/
namespace Sys2Proof.Proofs

open Sys2Proof.Machine Sys2Proof.Safety

/-! ### The jump -/

theorem addr16_toNat (nnn : Addr) : (addr16 nnn).toNat = nnn.toNat := BitVec.toNat_setWidth_of_le (by decide)

theorem addr16_getLsbD_zero (nnn : Addr) : (addr16 nnn).getLsbD 0 = nnn.getLsbD 0 := by simp [addr16]

theorem setPc_eq_self {s : State} {w : Word} (h : s.pc = w) : s.setPc w = s := by
  rw [← h]
  rfl

/-- A core that is not halted and whose fetch faults raises that fault, whatever word is at PC. -/
theorem step_of_fetchFault {s : State} {c : FaultCause} (hh : s.halted = false) (hf : s.fetchFault = some c) :
    step s = .next (s.clearOutputs.raise c s.pc) := by
  have hf' : s.clearOutputs.fetchFault = some c := hf
  rw [step, runStep, if_neg (by simp [hh]), runActive, hf']
  rfl

theorem fetchFault_of_outOfBounds {s : State} (h : s.pc.toNat + 1 > 0xFFF) : s.fetchFault = some .pcBounds := by
  rw [State.fetchFault, if_pos h]

theorem fetchFault_of_misaligned {s : State} (hb : s.pc.toNat + 1 ≤ 0xFFF) (ha : s.config.alignCheck = true)
    (ho : s.pc.getLsbD 0 = true) : s.fetchFault = some .pcMisaligned := by
  rw [State.fetchFault, if_neg (Nat.not_lt.mpr hb), ha, ho]
  rfl

/-- A jump to the last address leaves a PC whose second byte lies outside memory. -/
theorem fetchFault_setPc_last (s : State) : (s.setPc (addr16 0xFFF#12)).fetchFault = some .pcBounds :=
  fetchFault_of_outOfBounds (by simp [addr16_toNat])

/-- A jump to any other odd address leaves a PC that is in bounds and not aligned. -/
theorem fetchFault_setPc_odd {nnn : Addr} {s : State} (hne : nnn ≠ 0xFFF#12) (ho : nnn.getLsbD 0 = true)
    (ha : s.config.alignCheck = true) : (s.setPc (addr16 nnn)).fetchFault = some .pcMisaligned := by
  have hlt : nnn.toNat + 1 ≤ 0xFFF := by bv_omega
  exact fetchFault_of_misaligned (by simpa [addr16_toNat] using hlt) ha ((addr16_getLsbD_zero nnn).trans ho)

/-- Settles O28: the jump is one write of PC, and the next fetch judges the target. -/
theorem jpSetsPc : Obligations.JpSetsPc := by
  intro nnn s
  refine ⟨decodeWord_encode (i := .jp nnn) rfl, s.setPc (addr16 nnn), rfl, addr16_toNat nnn, onlyPc_setPc .., ?_, ?_, ?_⟩
  · rintro hh rfl
    exact ⟨_, step_of_fetchFault hh (fetchFault_setPc_last s), rfl⟩
  · intro hh hne ho ha
    exact ⟨_, step_of_fetchFault hh (fetchFault_setPc_odd hne ho ha), rfl⟩
  · intro hpc
    exact setPc_eq_self (BitVec.eq_of_toNat_eq (hpc.trans (addr16_toNat nnn).symm))

/-! ### The skips -/

/-- A skip moves PC by 4 or by 2 as the condition it tests holds or not, and writes nothing else (10_state.md R26). -/
theorem skipIf_pc_and_onlyPc (s : State) {b : Bool} {p : Prop} [Decidable p] (h : b = true ↔ p) :
    (s.skipIf b).pc = (if p then s.pc + 4 else s.pc + 2) ∧ OnlyPc s (s.skipIf b) := by
  refine ⟨?_, onlyPc_setPc ..⟩
  simp only [State.skipIf_pc, h]

/-- Settles O30: both are the skip, on V[x] = kk and on its negation. -/
theorem skipsOnImmediate : Obligations.SkipsOnImmediate := by
  intro x kk s
  have hse := skipIf_pc_and_onlyPc s (beq_iff_eq (a := s.reg x) (b := kk))
  have hsne := skipIf_pc_and_onlyPc s (bne_iff_ne (a := s.reg x) (b := kk))
  exact ⟨⟨decodeWord_encode (i := .seVxKk x kk) rfl, _, rfl, hse⟩,
    decodeWord_encode (i := .sneVxKk x kk) rfl, _, rfl, hsne⟩

end Sys2Proof.Proofs

/-!
PROOF. The statements of 41_alu.md: the register loads (R150, R154), and ADD and SUB with their flags (R162, R164).
-/
namespace Sys2Proof.Proofs

open Sys2Proof.Machine Sys2Proof.Safety

/-! ### The 8-bit results and their flags -/

theorem sumByte_toNat (a b : Byte) : (sumByte a b).toNat = (a.toNat + b.toNat) % 256 := BitVec.toNat_ofNat ..

theorem diffByte_toNat (a b : Byte) : (diffByte a b).toNat = (a.toNat + 256 - b.toNat) % 256 := BitVec.toNat_ofNat ..

theorem carryOut_eq_true {a b : Byte} : carryOut a b = true ↔ a.toNat + b.toNat > 255 := decide_eq_true_iff

theorem noBorrow_eq_true {a b : Byte} : noBorrow a b = true ↔ a.toNat ≥ b.toNat := decide_eq_true_iff

theorem flagByte_eq_ite {f : Bool} {p : Prop} [Decidable p] (h : f = true ↔ p) :
    flagByte f = if p then 1 else 0 := by
  simp only [flagByte, h]

/-! ### The two endings of an ALU instruction -/

/-- A result in V[x] and the advance: what V[x] and PC hold, and the frame. -/
theorem setReg_advance_spec (s : State) (x : Reg) (b : Byte) :
    (s.setReg x b).advance.reg x = b ∧ (s.setReg x b).advance.pc = s.pc + 2 ∧
      OnlyRegs [x] s (s.setReg x b).advance :=
  ⟨State.setReg_reg_self s x b, rfl, onlyRegs_setReg s x b⟩

/-- A result in V[x], its flag in VF, and the advance: V[x] holds the result unless it is VF, which holds the flag in any
case (10_state.md R23). -/
theorem setRegFlag_advance_spec (s : State) (x : Reg) {b : Byte} {n : Nat} {f : Bool} {p : Prop} [Decidable p]
    (hb : b.toNat = n) (hf : f = true ↔ p) :
    (x ≠ Reg.flag → ((s.setRegFlag x b f).advance.reg x).toNat = n) ∧
      (s.setRegFlag x b f).advance.reg Reg.flag = (if p then 1 else 0) ∧
      (s.setRegFlag x b f).advance.pc = s.pc + 2 ∧ OnlyRegs [x, Reg.flag] s (s.setRegFlag x b f).advance := by
  refine ⟨fun hx => ?_, ?_, rfl, onlyRegs_setRegFlag s x b f⟩
  · rw [State.advance_reg, State.setRegFlag_reg, if_neg hx, if_pos rfl, hb]
  · rw [State.advance_reg, State.setRegFlag_reg, if_pos rfl, flagByte_eq_ite hf]

/-! ### The instructions -/

/-- Settles O33: both loads are one register write and the advance. -/
theorem loadsRegister : Obligations.LoadsRegister :=
  ⟨fun x kk s => ⟨decodeWord_encode (i := .ldVxKk x kk) rfl, _, rfl, setReg_advance_spec s x kk⟩,
    fun x y s => ⟨decodeWord_encode (i := .ldVxVy x y) rfl, _, rfl, setReg_advance_spec s x (s.reg y)⟩⟩

/-- Settles O36: the sum is written first and the carry after it. -/
theorem addSetsCarry : Obligations.AddSetsCarry := fun x y s =>
  ⟨decodeWord_encode (i := .addVxVy x y) rfl, _, rfl,
    setRegFlag_advance_spec s x (sumByte_toNat ..) carryOut_eq_true⟩

/-- Settles O37: the difference is written first and the flag, which is 1 without a borrow, after it. -/
theorem subSetsNoBorrow : Obligations.SubSetsNoBorrow := fun x y s =>
  ⟨decodeWord_encode (i := .subVxVy x y) rfl, _, rfl,
    setRegFlag_advance_spec s x (diffByte_toNat ..) noBorrow_eq_true⟩

end Sys2Proof.Proofs

/-!
PROOF. The statements of 42_index_memory.md: LD I (R180), the decimal digits (R186), and the load of registers with its
round trip through a dump (R188, R190).
-/
namespace Sys2Proof.Proofs

open Sys2Proof.Machine Sys2Proof.Safety

/-! ### The address register -/

/-- Settles O41: one write of I and the advance. -/
theorem ldISetsI : Obligations.LdISetsI := fun nnn _ =>
  ⟨decodeWord_encode (i := .ldI nnn) rfl, _, rfl, addr16_toNat nnn, rfl, rfl, keepsRegs_of_eq rfl _,
    keepsMemory_of_eq rfl rfl⟩

/-! ### The access at I (R179) -/

theorem accessAtI_of_inBounds {s : State} {len : Nat} (h : s.i.toNat + len ≤ 0x1000) (body : State) :
    s.accessAtI len body = body := by
  rcases s.accessAtI_cases len body with ⟨-, hbody⟩ | ⟨_, -, hout, -⟩
  · exact hbody
  · omega

/-- An access out of bounds raises MEM_BOUNDS, whatever the instruction would have written. -/
theorem accessAtI_of_outOfBounds {s : State} {len : Nat} (hlen : 0 < len) (h : 0x1000 < s.i.toNat + len)
    (body : State) : ∃ a : Word, s.accessAtI len body = s.raise .memBounds a := by
  rcases s.accessAtI_cases len body with ⟨hin, -⟩ | ⟨a, -, -, -, hraise⟩
  · omega
  · exact ⟨a, hraise⟩

/-! ### The decimal digits -/

/-- The digits of a byte, written in bounds, are read back as its hundreds, tens and units. -/
theorem readByte_memWrite_decimalDigits (s : State) (v : Byte) {base : Nat} (hbase : base + 3 ≤ 0x1000) :
    ∃ h d u : Byte,
      (s.memWrite base (decimalDigits v)).readByte base = some h ∧
      (s.memWrite base (decimalDigits v)).readByte (base + 1) = some d ∧
      (s.memWrite base (decimalDigits v)).readByte (base + 2) = some u ∧
      h.toNat = v.toNat / 100 ∧ d.toNat = v.toNat / 10 % 10 ∧ u.toNat = v.toNat % 10 := by
  have hread (k : Nat) (hk : k < 3) := State.readByte_memWrite_inside (s := s) (bs := decimalDigits v) hk hbase
  have hdigit {n : Nat} (hn : n < 256) : (BitVec.ofNat 8 n).toNat = n :=
    (BitVec.toNat_ofNat n 8).trans (Nat.mod_eq_of_lt hn)
  have hv := v.isLt
  exact ⟨_, _, _, hread 0 (by decide), hread 1 (by decide), hread 2 (by decide),
    hdigit (by omega), hdigit (by omega), hdigit (by omega)⟩

/-- Settles O43: in bounds the one write of three digits, else the raise alone. -/
theorem bcdStoresDigits : Obligations.BcdStoresDigits := by
  intro x s
  refine ⟨decodeWord_encode (i := .ldBVx x) rfl, fun hin => ?_, fun hout => ?_⟩
  · refine ⟨_, congrArg Host.Outcome.next (accessAtI_of_inBounds (by omega) _), ?_, rfl, rfl,
      keepsRegs_of_eq rfl _, ?_⟩
    · exact readByte_memWrite_decimalDigits s (s.reg x) (by omega)
    · exact keepsMemoryOutside_congr (keepsMemoryOutside_memWrite s _ (decimalDigits (s.reg x))) rfl rfl
  · obtain ⟨a, hraise⟩ := accessAtI_of_outOfBounds (s := s) (len := 3) (by decide) (by omega) _
    exact ⟨_, congrArg Host.Outcome.next hraise, rfl, rfl⟩

/-! ### The dump and the load of registers -/

/-- What Fx55 answers in bounds (R188). -/
def afterDump (x : Reg) (s : State) : State := ((s.memWrite s.i.toNat (s.regsUpTo x)).bumpI x).advance

/-- What Fx65 answers in bounds (R190). -/
def afterLoad (x : Reg) (s : State) : State :=
  ((s.setRegsFrom 0 (s.memRead s.i.toNat (x.toNat + 1))).bumpI x).advance

theorem exec_ldMemVx_of_inBounds {x : Reg} {s : State} (h : s.i.toNat + x.toNat ≤ 0xFFF) :
    exec (.ldMemVx x) s = .next (afterDump x s) :=
  congrArg Host.Outcome.next (accessAtI_of_inBounds (by omega) _)

theorem exec_ldVxMem_of_inBounds {x : Reg} {s : State} (h : s.i.toNat + x.toNat ≤ 0xFFF) :
    exec (.ldVxMem x) s = .next (afterLoad x s) :=
  congrArg Host.Outcome.next (accessAtI_of_inBounds (by omega) _)

/-- With QUIRK_LS_INC, I moves past the registers' bytes, and does not wrap where they lie in memory. -/
theorem bumpI_i_toNat {s : State} {x : Reg} (h : s.i.toNat + x.toNat ≤ 0xFFF) :
    (s.bumpI x).i.toNat = if s.config.loadStoreIncrement then s.i.toNat + x.toNat + 1 else s.i.toNat := by
  rw [State.bumpI]
  split
  · rw [State.setI_i]
    bv_omega
  · rfl

/-- A load writes the registers, I and PC. -/
theorem afterLoad_eq (x : Reg) (s : State) :
    afterLoad x s = { s with v := (afterLoad x s).v, i := (afterLoad x s).i, pc := (afterLoad x s).pc } := by
  rw [afterLoad, State.bumpI_eq, State.setRegsFrom_eq]
  rfl

theorem afterLoad_pc (x : Reg) (s : State) : (afterLoad x s).pc = s.pc + 2 := by
  rw [afterLoad, State.advance_pc, State.bumpI_eq, State.setRegsFrom_eq]

theorem afterLoad_i (x : Reg) (s : State) : (afterLoad x s).i = (s.bumpI x).i := by
  rw [afterLoad, State.advance_i, State.bumpI_eq, State.bumpI_eq, State.setRegsFrom_eq]

theorem afterLoad_reg (x : Reg) (s : State) (r : Reg) :
    (afterLoad x s).reg r = (s.setRegsFrom 0 (s.memRead s.i.toNat (x.toNat + 1))).reg r := by
  rw [afterLoad, State.advance_reg, State.bumpI_eq]
  rfl

/-- A register the load reaches holds the byte at I plus its index. -/
theorem readByte_eq_afterLoad_reg {x : Reg} {s : State} (h : s.i.toNat + x.toNat ≤ 0xFFF) {r : Reg}
    (hr : r.toNat ≤ x.toNat) : s.readByte (s.i.toNat + r.toNat) = some ((afterLoad x s).reg r) := by
  have hx := x.isLt
  rw [afterLoad_reg, State.setRegsFrom_reg s (by rw [State.memRead_length]; omega),
    dif_pos (by rw [State.memRead_length]; omega)]
  exact s.readByte_eq_memRead (by omega) (by omega)

/-- A register above V[x] holds what it held. -/
theorem afterLoad_reg_above {x : Reg} (s : State) {r : Reg} (hr : x.toNat < r.toNat) :
    (afterLoad x s).reg r = s.reg r := by
  have hx := x.isLt
  rw [afterLoad_reg, State.setRegsFrom_reg s (by rw [State.memRead_length]; omega),
    dif_neg (by rw [State.memRead_length]; omega)]

/-- After a dump the byte at I plus a dumped register's index is that register. -/
theorem readByte_afterDump {x : Reg} {s : State} (h : s.i.toNat + x.toNat ≤ 0xFFF) {r : Reg}
    (hr : r.toNat ≤ x.toNat) : (afterDump x s).readByte (s.i.toNat + r.toNat) = some (s.reg r) := by
  have hbump : (afterDump x s).readByte (s.i.toNat + r.toNat) =
      (s.memWrite s.i.toNat (s.regsUpTo x)).readByte (s.i.toNat + r.toNat) := by
    rw [afterDump, State.bumpI_eq]
    rfl
  rw [hbump, State.readByte_memWrite_inside (by rw [State.regsUpTo_length]; omega)
    (by rw [State.regsUpTo_length]; omega), State.regsUpTo_getElem s x (by omega),
    BitVec.ofNat_toNat, BitVec.setWidth_eq]

/-- A load from a dump's memory and I gives the dumped registers back, whatever the register file. -/
theorem afterLoad_reg_of_afterDump {x : Reg} {s u : State} (h : s.i.toNat + x.toNat ≤ 0xFFF)
    (hm : u.mem = (afterDump x s).mem) (hc : u.config = (afterDump x s).config) (hi : u.i = s.i) {r : Reg}
    (hr : r.toNat ≤ x.toNat) : (afterLoad x u).reg r = s.reg r :=
  Option.some.inj <| calc
    some ((afterLoad x u).reg r)
    _ = u.readByte (u.i.toNat + r.toNat) := (readByte_eq_afterLoad_reg (hi ▸ h) hr).symm
    _ = (afterDump x s).readByte (s.i.toNat + r.toNat) := by rw [hi, State.readByte_congr hm hc]
    _ = some (s.reg r) := readByte_afterDump h hr

/-- Settles O45: in bounds a load is `afterLoad`, which undoes `afterDump`; out of bounds it is the raise alone. -/
theorem loadReadsRegisters : Obligations.LoadReadsRegisters := by
  intro x s
  refine ⟨decodeWord_encode (i := .ldVxMem x) rfl, fun hin => ?_, fun hout => ?_, fun t u hin hdump hm hc hi => ?_⟩
  · refine ⟨_, exec_ldVxMem_of_inBounds hin, fun _ => readByte_eq_afterLoad_reg hin, fun _ => afterLoad_reg_above s,
      ?_, afterLoad_pc x s, afterLoad_eq x s, ?_⟩
    · rw [afterLoad_i, bumpI_i_toNat hin]
    · rw [afterLoad_eq]
      exact keepsMemory_of_eq rfl rfl
  · obtain ⟨a, hraise⟩ := accessAtI_of_outOfBounds (s := s) (len := x.toNat + 1) (by omega) (by omega) _
    exact ⟨_, congrArg Host.Outcome.next hraise, rfl, rfl⟩
  · rw [exec_ldMemVx_of_inBounds hin] at hdump
    cases hdump
    exact ⟨_, exec_ldVxMem_of_inBounds (hi ▸ hin), fun _ => afterLoad_reg_of_afterDump hin hm hc hi⟩

end Sys2Proof.Proofs

/-!
PROOF. The statement of 43_display.md about clipping (R204), from what a completed draw does to each pixel and to VF (R203).
-/
namespace Sys2Proof.Proofs

open Sys2Proof.Machine Sys2Proof.Safety

/-- What DRW answers in bounds (R203). -/
def afterDraw (x y : Reg) (n : Nibble) (s : State) : State :=
  ((s.setFrame (s.drawn x y n).1).setReg Reg.flag (flagByte (s.drawn x y n).2)).advance

/-- The bytes of an n-row sprite at I lie in memory; with n = 0 there are none (R207). -/
def SpriteInBounds (n : Nibble) (s : State) : Prop := n.toNat = 0 ∨ s.i.toNat + n.toNat ≤ 0x1000

/-- A draw that leaves no fault recorded had its sprite in memory, and completed. -/
theorem inBounds_and_eq_afterDraw {x y : Reg} {n : Nibble} {s t : State} (h : exec (.drw x y n) s = .next t)
    (ht : t.faultCause = .none) : SpriteInBounds n s ∧ t = afterDraw x y n s := by
  obtain rfl : s.accessAtI n.toNat (afterDraw x y n s) = t := Host.Outcome.next.inj h
  rcases s.accessAtI_cases n.toNat (afterDraw x y n s) with hdrawn | ⟨a, -, -, -, hraise⟩
  · exact hdrawn
  · rw [hraise] at ht
    cases ht

theorem flagByte_eq_one {f : Bool} : flagByte f = 1 ↔ f = true := by cases f <;> decide

/-- The blit changes a pixel exactly when the sprite bit that falls on it is 1. -/
theorem xor_ne_left_iff {a b : Bool} : (a ^^ b) ≠ a ↔ b = true := by cases a <;> cases b <;> decide

/-- A completed draw changes exactly the pixels its sprite touches. -/
theorem afterDraw_pixel_ne_iff {n : Nibble} {s : State} (h : SpriteInBounds n s) (x y : Reg)
    (px : Fin 64) (py : Fin 32) :
    (afterDraw x y n s).fb.pixel px py ≠ s.fb.pixel px py ↔ DrawTouches s x y n px py := by
  have hpixel : (afterDraw x y n s).fb.pixel px py = (s.fb.pixel px py ^^ _) := blit_pixel ..
  rw [hpixel, DrawTouches, ← spriteTouches_memRead s h]
  exact xor_ne_left_iff

/-- A completed draw sets VF exactly when its sprite touches a set pixel. -/
theorem afterDraw_flag_eq_one_iff {n : Nibble} {s : State} (h : SpriteInBounds n s) (x y : Reg) :
    (afterDraw x y n s).reg Reg.flag = 1 ↔ ∃ px py, DrawTouches s x y n px py ∧ s.fb.pixel px py = true := by
  have hflag : (afterDraw x y n s).reg Reg.flag = flagByte (s.drawn x y n).2 := State.setReg_reg_self ..
  rw [hflag, flagByte_eq_one, State.drawn, blit_hit]
  exact exists_congr fun px => exists_congr fun py => and_congr_left' (spriteTouches_memRead s h _ _ px py)

/-- A pixel that changed and was set is one that went from set to unset. -/
theorem ne_and_eq_true_iff {a b : Bool} : b ≠ a ∧ a = true ↔ a = true ∧ b = false := by
  cases a <;> cases b <;> decide

/-- Settles O49: the changed pixels are the touched ones, which lie within the sprite's extent from its origin, and VF counts
those that were set. -/
theorem drawsAreClipped : Obligations.DrawsAreClipped := by
  intro x y n s t _ hexec ht
  obtain ⟨hin, rfl⟩ := inBounds_and_eq_afterDraw hexec ht
  have hchanged := afterDraw_pixel_ne_iff hin x y
  refine ⟨fun px py hne => ?_, ?_, fun h60 px py hne => ?_⟩
  · obtain ⟨hleft, hright, htop, hbottom, -⟩ := (hchanged px py).mp hne
    exact ⟨hleft, hright, htop, hbottom⟩
  · simp only [afterDraw_flag_eq_one_iff hin, ← hchanged, ne_and_eq_true_iff]
  · obtain ⟨hleft, -⟩ := (hchanged px py).mp hne
    exact h60 ▸ hleft

end Sys2Proof.Proofs

/-!
PROOF. The statements of 44_timers_keys.md: the delay timer (R220, R222) and the wait for a key (R230, R232).
-/
namespace Sys2Proof.Proofs

open Sys2Proof.Machine Sys2Proof.Safety

/-- A core that executes a word has no fault recorded. -/
theorem faultCause_of_executes {s : State} {w : Word} (hx : Executes s w) : s.faultCause = .none :=
  (State.halted_eq_false.mp hx.1).2

/-! ### The delay timer -/

/-- The tick comes before exec, so a step of Fx07 reads the timer ticked (R220). -/
theorem step_ldVxDt {x : Reg} {s : State} (hx : Executes s (0xF#4 ++ x ++ 0x07#8)) :
    step s = .next (((AtDispatch s).setReg x (AtDispatch s).dt).advance.endStep false) :=
  step_of_exec hx (decodeWord_encode (i := .ldVxDt x) rfl) rfl (faultCause_of_executes hx :)

/-- The tick comes before exec, so a step of Fx15 leaves the timer at the value it was set to (R222). -/
theorem step_ldDtVx {x : Reg} {s : State} (hx : Executes s (0xF#4 ++ x ++ 0x15#8)) :
    step s = .next (((AtDispatch s).setDt (s.reg x)).advance.endStep false) :=
  step_of_exec hx (decodeWord_encode (i := .ldDtVx x) rfl) rfl (faultCause_of_executes hx :)

/-- Settles O51: Fx07 is one register write and Fx15 one timer write, on the state after the tick. -/
theorem delayTimerReadAndSet : Obligations.DelayTimerReadAndSet := by
  refine ⟨fun x s => ⟨decodeWord_encode (i := .ldVxDt x) rfl, ?_, fun hx => ?_⟩,
    fun x s => ⟨decodeWord_encode (i := .ldDtVx x) rfl, ?_, fun hx => ?_⟩⟩
  · exact ⟨_, rfl, setReg_advance_spec s x s.dt⟩
  · refine ⟨_, step_ldVxDt hx, (faultCause_of_executes hx :), ?_⟩
    rw [State.endStep_reg, State.advance_reg, State.setReg_reg_self]
    exact tick_dt_toNat s.clearOutputs
  · exact ⟨_, rfl, rfl, rfl, rfl, keepsRegs_of_eq rfl _, keepsMemory_of_eq rfl rfl⟩
  · exact ⟨_, step_ldDtVx hx, (faultCause_of_executes hx :), rfl⟩

/-! ### The wait for a key -/

/-- The lowest pressed key is the one found. -/
theorem lowestKey_of_lowest {s : State} {k : Nat} (hk : k < 16) (hpressed : s.keys.getLsbD k = true)
    (hlower : ∀ j : Nat, j < k → s.keys.getLsbD j = false) : s.lowestKey = some k := by
  rw [State.lowestKey, List.find?_range_eq_some]
  exact ⟨hpressed, List.mem_range.mpr hk, fun j hj => by simpa [State.key] using hlower j hj⟩

theorem keys_ne_zero_of_lowestKey {s : State} {k : Nat} (h : s.lowestKey = some k) : s.keys ≠ 0 := fun hkeys =>
  Option.some_ne_none k (h.symm.trans (State.lowestKey_eq_none.mpr hkeys))

/-- What Fx0A answers when it takes key k (R230). -/
def afterKey (x : Reg) (k : Nat) (s : State) : State := (s.setReg x (BitVec.ofNat 8 k)).advance

theorem afterKey_reg_toNat {k : Nat} (hk : k < 16) (x : Reg) (s : State) : ((afterKey x k s).reg x).toNat = k := by
  rw [afterKey, State.advance_reg, State.setReg_reg_self, BitVec.toNat_ofNat, Nat.mod_eq_of_lt (by omega)]

theorem exec_ldVxK_of_noKey {s : State} (h : s.keys = 0) (x : Reg) : exec (.ldVxK x) s = .next s := by
  rw [exec, execLdVxK, State.lowestKey_eq_none.mpr h]

theorem exec_ldVxK_of_lowestKey {s : State} {k : Nat} (h : s.lowestKey = some k) (x : Reg) :
    exec (.ldVxK x) s = .next (afterKey x k s) := by
  rw [exec, execLdVxK, h, afterKey]

/-- A step of Fx0A with no key pressed is the tick and the end of the step, with AWAIT_KEY set. -/
theorem step_ldVxK_of_noKey {x : Reg} {s : State} (hx : Executes s (0xF#4 ++ x ++ 0x0A#8)) (h : s.keys = 0) :
    step s = .next ((AtDispatch s).endStep true) := by
  rw [step_of_exec hx (decodeWord_encode (i := .ldVxK x) rfl) (exec_ldVxK_of_noKey (s := AtDispatch s) h x)
    (faultCause_of_executes hx :), h]
  rfl

/-- A step of Fx0A with a key pressed takes the lowest one and clears AWAIT_KEY. -/
theorem step_ldVxK_of_lowestKey {x : Reg} {s : State} {k : Nat} (hx : Executes s (0xF#4 ++ x ++ 0x0A#8))
    (h : s.lowestKey = some k) : step s = .next ((afterKey x k (AtDispatch s)).endStep false) := by
  rw [step_of_exec hx (decodeWord_encode (i := .ldVxK x) rfl) (exec_ldVxK_of_lowestKey (s := AtDispatch s) h x)
    (faultCause_of_executes hx :), beq_false_of_ne (keys_ne_zero_of_lowestKey h), Bool.and_false]

/-- Settles O54: the cases are whether a key is found; the tick has run before either. -/
theorem waitForKeyTakesLowest : Obligations.WaitForKeyTakesLowest := by
  refine fun x s => ⟨decodeWord_encode (i := .ldVxK x) rfl, fun h => exec_ldVxK_of_noKey h x,
    fun k hk hpressed hlower => ?_, fun hx => ?_⟩
  · exact ⟨_, exec_ldVxK_of_lowestKey (lowestKey_of_lowest hk hpressed hlower) x, afterKey_reg_toNat hk x s, rfl,
      onlyRegs_setReg s x _⟩
  · have hfault := faultCause_of_executes hx
    have hdt := tick_dt_toNat s.clearOutputs
    have hst := tick_st_toNat s.clearOutputs
    cases hkey : s.lowestKey with
    | none =>
      have hkeys := State.lowestKey_eq_none.mp hkey
      exact ⟨_, step_ldVxK_of_noKey hx hkeys, hfault, iff_of_true rfl hkeys,
        fun _ => ⟨rfl, rfl, rfl⟩, hdt, hst⟩
    | some k =>
      have hkeys := keys_ne_zero_of_lowestKey hkey
      exact ⟨_, step_ldVxK_of_lowestKey hx hkey, hfault, iff_of_false Bool.false_ne_true hkeys,
        fun h => absurd h hkeys, hdt, hst⟩

/-- What holds of a state and is kept by each step that starts where it holds, holds after any number of steps. -/
theorem run_keeps {P : State → Prop} (hstep : ∀ t, P t → ∃ u, step t = .next u ∧ P u) {s : State} (hs : P s)
    (k : Nat) : ∃ t, core.run k s = .next t ∧ P t := by
  induction k generalizing s with
  | zero => exact ⟨s, rfl, hs⟩
  | succ k ih =>
    obtain ⟨u, hu, hPu⟩ := hstep s hs
    obtain ⟨t, hrun, hPt⟩ := ih hPu
    exact ⟨t, (run_succ_of_step (M := core) hu k).trans hrun, hPt⟩

theorem SameButTimersOutputs.refl (s : State) : SameButTimersOutputs s s := rfl

/-- The key latch is among what the wait leaves alone. -/
theorem SameButTimersOutputs.keys_eq {s t : State} (h : SameButTimersOutputs s t) : t.keys = s.keys := by
  rw [h]

/-- The tick and the end of a step are within what the relation leaves open. -/
theorem sameButTimersOutputs_endStep (s : State) (b : Bool) : SameButTimersOutputs s ((AtDispatch s).endStep b) := rfl

/-- Any number of steps of Fx0A with no key pressed changes the timers and outputs alone. -/
theorem run_ldVxK_of_noKey {x : Reg} {s : State} (hx : Executes s (0xF#4 ++ x ++ 0x0A#8)) (h : s.keys = 0) (k : Nat) :
    ∃ t, core.run k s = .next t ∧ SameButTimersOutputs s t :=
  run_keeps (P := SameButTimersOutputs s)
    (fun t hst => ⟨_, step_ldVxK_of_noKey (hst.executes hx) (hst.keys_eq.trans h),
      hst.trans (sameButTimersOutputs_endStep t true)⟩) (.refl s) k

/-- Settles O55: the wait keeps the fetched word and PC, so the step after the press executes the same Fx0A and takes the
key. -/
theorem waitForKeyHoldsUntilPressed : Obligations.WaitForKeyHoldsUntilPressed := by
  intro x s hx h k
  obtain ⟨t, hrun, hst⟩ := run_ldVxK_of_noKey hx h k
  refine ⟨t, hrun, hst.pc_eq, fun m j hj hpressed hlower => ?_⟩
  have hpress : Executes { t with keys := m } (0xF#4 ++ x ++ 0x0A#8) := hst.executes hx
  have hkey := lowestKey_of_lowest (s := { t with keys := m }) hj hpressed hlower
  exact ⟨_, step_ldVxK_of_lowestKey hpress hkey, congrArg (· + 2) hst.pc_eq, afterKey_reg_toNat hj x _⟩

end Sys2Proof.Proofs

/-!
PROOF. The statements about the invariant (60_exceptions.md section 1): the reset state meets it, and every step and every
transaction of the host keeps it.
-/
namespace Sys2Proof.Proofs

open Sys2Proof.Machine Sys2Proof.Safety

/-! ### The parts of the invariant -/

/-- Where no fault is recorded the fault registers are 0. -/
theorem fault_registers_eq_zero {s : State} (h : FaultReportOk s) (hf : s.faultCause = .none) :
    s.faultPc = 0 ∧ s.faultAddr = 0 := by
  rw [FaultReportOk, hf] at h
  exact h

/-- With no fault recorded, the invariant is the canonical form of memory and fault registers that are 0. -/
theorem inv_of_noFault {s : State} (hm : s.mem.wf s.config = true) (hf : s.faultCause = .none)
    (hpc : s.faultPc = 0) (haddr : s.faultAddr = 0) : Inv s := by
  refine ⟨hm, ?_, fun hne => absurd hf hne⟩
  rw [FaultReportOk, hf]
  exact ⟨hpc, haddr⟩

/-- A raise silences the outputs itself, so it meets the invariant once its report is true. -/
theorem inv_raise {s : State} {c : FaultCause} {a : Word} (hm : s.mem.wf s.config = true)
    (hr : FaultReportOk (s.raise c a)) : Inv (s.raise c a) := ⟨hm, hr, fun _ => ⟨rfl, rfl⟩⟩

/-! ### What an instruction does to them -/

/-- A raised fault is a raise on the state the instruction ran in. -/
theorem raises_eq_raise {i : Instr} {s t : State} (h : Raises i s t) : t = s.raise t.faultCause t.faultAddr := by
  cases h <;> rfl

/-- What an instruction raises is reported truly, cause by cause. -/
theorem faultReportOk_of_raises {i : Instr} {s t : State} (h : Raises i s t) (hp : PcValid s) : FaultReportOk t := by
  cases h with
  | overflow nnn hi hsp => exact ⟨rfl, hp, hsp, (addr16_toNat nnn).trans_lt nnn.isLt⟩
  | underflow ign hi hsp => exact ⟨rfl, hp, hsp, rfl⟩
  | bcd _ _ _ _ ha | dump _ _ _ _ ha | load _ _ _ _ ha | draw _ _ _ _ _ _ _ ha => exact ⟨rfl, hp, ha⟩
  | illegal nnn hi hs => exact ⟨rfl, hp, rfl, hs⟩

/-- A completed instruction keeps memory's canonical form: it leaves memory alone or writes consecutive bytes. -/
theorem wf_of_completes {i : Instr} {s t : State} (h : Completes i s t) (hm : s.mem.wf s.config = true) :
    t.mem.wf t.config = true := by
  rw [h.config]
  rcases h.mem with hmem | ⟨x, -, hmem⟩ | ⟨x, -, hmem⟩ <;> rw [hmem]
  · exact hm
  · exact Memory.wf_writeBytes hm
  · exact Memory.wf_writeBytes hm

/-! ### The step -/

/-- What the fetch raises is reported truly. -/
theorem faultReportOk_fetchFault {s : State} {c : FaultCause} (h : s.fetchFault = some c) :
    FaultReportOk (s.clearOutputs.raise c s.pc) := by
  rcases State.fetchFault_eq_some h with ⟨rfl, hb⟩ | ⟨rfl, -, ha, ho⟩
  · exact ⟨rfl, rfl, hb⟩
  · exact ⟨rfl, rfl, ha, ho⟩

/-- Settles O16: a step raises a fault on the state before it, with a true report, or leaves the fault registers and the
canonical form as they were. -/
theorem stepKeepsInv : Obligations.StepKeepsInv := by
  rintro s t ⟨hm, hr, -⟩ hstep
  cases stepsTo_of_step hstep with
  | halted hh => exact ⟨hm, hr, fun _ => ⟨rfl, rfl⟩⟩
  | fetchFault c hh hf => exact inv_raise hm (faultReportOk_fetchFault hf)
  | illegalWord w hx hd hs => exact inv_raise hm ⟨rfl, hx.2.1, rfl, hs⟩
  | skippedWord w hx hd hs =>
    have hf : s.faultCause = .none := (State.halted_eq_false.mp hx.1).2
    obtain ⟨hpc, haddr⟩ := fault_registers_eq_zero hr hf
    exact inv_of_noFault hm hf hpc haddr
  | raised w i u hx hd he hraise =>
    have hreport : FaultReportOk u := faultReportOk_of_raises hraise hx.2.1
    rw [raises_eq_raise hraise] at hreport
    exact inv_raise hm hreport
  | completed w i u hx hd he hc =>
    have hf : s.faultCause = .none := (State.halted_eq_false.mp hx.1).2
    obtain ⟨hpc, haddr⟩ := fault_registers_eq_zero hr hf
    have hwf : u.mem.wf u.config = true := wf_of_completes hc hm
    exact inv_of_noFault (s := u.endStep _) hwf (hc.faultCause.trans hf) (hc.faultPc.trans hpc) (hc.faultAddr.trans haddr)

/-! ### The reset state and the transactions -/

/-- Settles O17: reset memory lists nothing and no fault is recorded. -/
theorem constructMeetsInv : Obligations.ConstructMeetsInv := fun _ => inv_of_noFault rfl rfl rfl rfl

/-- A load of at most ROM_MAX bytes writes them from PROG_BASE and sets LOADED (20_memory.md R78). -/
theorem load_of_le {bytes : List Byte} (h : bytes.length ≤ 3584) (s : State) :
    s.load bytes = ({ s.memWrite progBase bytes with loaded := true }, true) := if_pos h

/-- A longer load clears LOADED alone. -/
theorem load_of_gt {bytes : List Byte} (h : 3584 < bytes.length) (s : State) :
    s.load bytes = ({ s with loaded := false }, false) := if_neg (Nat.not_le.mpr h)

/-- A set_key that is not refused writes the key latch alone (R81). -/
theorem setKey_eq_next {s t : State} {k : Nat} {p : Bool} (h : s.setKey k p = .next t) :
    t = { s with keys := t.keys } := by
  rw [State.setKey] at h
  split at h <;> cases h
  rfl

/-- Settles O18: beside the step, only a load writes memory, and it writes consecutive bytes; none writes a fault register. -/
theorem transactionsKeepInv : Obligations.TransactionsKeepInv := by
  rintro tr s t ⟨hm, hr, ho⟩ h
  cases tr with
  | load bytes =>
    cases h
    rcases Nat.lt_or_ge 3584 bytes.length with hlen | hlen
    · rw [load_of_gt hlen]
      exact ⟨hm, hr, ho⟩
    · rw [load_of_le hlen]
      exact ⟨Memory.wf_writeBytes hm, hr, ho⟩
  | loadUnreadable | advanceTime d => cases h; exact ⟨hm, hr, ho⟩
  | step => exact stepKeepsInv s t ⟨hm, hr, ho⟩ h
  | setKey k p => rw [setKey_eq_next h]; exact ⟨hm, hr, ho⟩

end Sys2Proof.Proofs

/-!
PROOF. The statements about the step and the faults (30_encoding.md R98 to R106, 60_exceptions.md section 1): the halted step,
the unmatched word, the fetch, the outputs at the end of a step, who raises which cause, and the sticky report.
-/
namespace Sys2Proof.Proofs

open Sys2Proof.Machine Sys2Proof.Safety

/-! ### The halted core -/

theorem step_of_halted {s : State} (h : s.halted = true) : step s = .next s.clearOutputs := if_pos h

/-- A core is halted when it is not loaded or has a fault recorded (10_state.md R47). -/
theorem halted_eq_true {s : State} : s.halted = true ↔ s.loaded = false ∨ s.faultCause ≠ .none := by
  simp [State.halted]

/-- Settles O7: a halted step is stage 0. -/
theorem haltedStepOnlyClearsOutputs : Obligations.HaltedStepOnlyClearsOutputs := fun _ h =>
  step_of_halted (halted_eq_true.mpr h)

/-- Settles O15: a core with a fault recorded is halted, so a step is stage 0, and no other transaction writes a fault
register. -/
theorem faultReportIsSticky : Obligations.FaultReportIsSticky := by
  intro tr s t hf h
  have hsticky {u : State} (hu : u.faultCause = s.faultCause) : u.halted = true := halted_eq_true.mpr (.inr (hu ▸ hf))
  cases tr with
  | load bytes =>
    cases h
    rcases Nat.lt_or_ge 3584 bytes.length with hlen | hlen
    · rw [load_of_gt hlen]; exact ⟨rfl, rfl, rfl, hsticky rfl⟩
    · rw [load_of_le hlen]; exact ⟨rfl, rfl, rfl, hsticky rfl⟩
  | loadUnreadable | advanceTime d => cases h; exact ⟨rfl, rfl, rfl, hsticky rfl⟩
  | step =>
    have hstep : step s = .next s.clearOutputs := step_of_halted (hsticky rfl)
    cases hstep.symm.trans h
    exact ⟨rfl, rfl, rfl, hsticky rfl⟩
  | setKey k p => rw [setKey_eq_next h]; exact ⟨rfl, rfl, rfl, hsticky rfl⟩

/-! ### What a step leaves alone -/

/-- Settles O19: stage 0, a raise, the tick and the end of a step write none of the three, and no instruction does. -/
theorem stepKeepsConfigKeysLoaded : Obligations.StepKeepsConfigKeysLoaded := by
  intro s t h
  cases stepsTo_of_step h with
  | halted | fetchFault | illegalWord | skippedWord | raised => exact ⟨rfl, rfl, rfl⟩
  | completed w i u hx hd he hc => exact ⟨hc.config, hc.keys, hc.loaded⟩

/-! ### The unmatched word -/

/-- A step that executes an unmatched word is stages 4 and 5 on it (R98). -/
theorem step_of_unmatched {s : State} {w : Word} (hx : Executes s w) (hd : decodeWord w = none) :
    step s = finish s.clearOutputs false (.next (AtDispatch s).unmatched) := by
  obtain ⟨hi, lo, rfl, hs⟩ := step_of_executes hx
  rw [hs, runFetched, decode_of_decodeWord_none hd]
  rfl

/-- Settles O6: STRICT_DECODE decides between the raise, with the tick discarded, and the advance. -/
theorem unmatchedWordIsNoOp : Obligations.UnmatchedWordIsNoOp := by
  intro s w hx hd
  have hf : (AtDispatch s).advance.faultCause = .none := (faultCause_of_executes hx :)
  rw [step_of_unmatched hx hd, finish_next]
  rcases (AtDispatch s).unmatched_cases with ⟨hs, hu⟩ | ⟨hs, hu⟩
  · have hs' : s.config.strictDecode = false := hs
    rw [hu, if_pos hf, hs']
    rfl
  · have hs' : s.config.strictDecode = true := hs
    rw [hu, hs']
    rfl

/-! ### Who raises which cause -/

/-- Settles O14: the cases of what an instruction can raise; one that completes leaves no cause. -/
theorem eachInstructionRaisesItsOwnCause : Obligations.EachInstructionRaisesItsOwnCause := by
  intro i s t hs h
  rcases exec_cases h with hr | hc
  · cases hr with
    | overflow nnn hi hsp => exact ⟨nnn, hi, hsp, addr16_toNat nnn⟩
    | underflow ign hi hsp => exact ⟨⟨ign, hi⟩, hsp, rfl⟩
    | bcd x a hi hb ha => exact ⟨ha, .inl ⟨x, hi, hb⟩⟩
    | dump x a hi hb ha => exact ⟨ha, .inr (.inl ⟨x, hi, hb⟩)⟩
    | load x a hi hb ha => exact ⟨ha, .inr (.inr (.inl ⟨x, hi, hb⟩))⟩
    | draw x y n a hi hn hb ha => exact ⟨ha, .inr (.inr (.inr ⟨x, y, n, hi, hn, hb⟩))⟩
    | illegal nnn hi hs' => exact ⟨⟨nnn, hi⟩, hs', rfl⟩
  · rw [hc.faultCause, hs]
    trivial

/-- The causes the fetch raises are none of an instruction's. -/
theorem raises_ne_fetchCause {i : Instr} {s t : State} (h : Raises i s t) :
    t.faultCause ≠ .pcBounds ∧ t.faultCause ≠ .pcMisaligned := by
  cases h <;> simp

/-- Settles O12: the fetch checks the bounds first, and where it passes no later stage raises its causes. -/
theorem fetchChecksBoundsThenAlignment : Obligations.FetchChecksBoundsThenAlignment := by
  refine fun s hh => ⟨fun hb => step_of_fetchFault hh (fetchFault_of_outOfBounds hb),
    fun hb ha ho => step_of_fetchFault hh (fetchFault_of_misaligned hb ha ho), fun hp t h => ?_⟩
  have hs : s.faultCause = .none := (State.halted_eq_false.mp hh).2
  cases stepsTo_of_step h with
  | halted hh' => simp [hh] at hh'
  | fetchFault c _ hf => simp [State.fetchFault_eq_none.mpr hp] at hf
  | illegalWord => simp
  | skippedWord => simp [AtDispatch, hs]
  | raised w i u hx hd he hr => exact (raises_ne_fetchCause hr :)
  | completed w i u hx hd he hc =>
    have hu : u.faultCause = .none := hc.faultCause.trans hs
    simp [hu]

/-! ### The outputs at the end of a step -/

/-- A state executes one word at most. -/
theorem executes_unique {s : State} {w w' : Word} (h : Executes s w) (h' : Executes s w') : w = w' := by
  obtain ⟨-, -, hi, lo, hhi, hlo, rfl⟩ := h
  obtain ⟨-, -, hi', lo', hhi', hlo', rfl⟩ := h'
  rw [Option.some.inj (hhi.symm.trans hhi'), Option.some.inj (hlo.symm.trans hlo')]

/-- Of the instructions that complete, CLS and DRW alone set display_updated (43_display.md R200, R203). -/
theorem displayUpdated_iff_of_completes {i : Instr} {s t : State} (he : exec i s = .next t) (hc : Completes i s t)
    (hs : s.faultCause = .none) (hd : s.displayUpdated = false) :
    t.displayUpdated = true ↔ (∃ ign, i = .cls ign) ∨ ∃ x y n, i = .drw x y n := by
  constructor
  · intro ht
    rcases hc.display with ⟨-, hkept⟩ | ⟨-, hi⟩
    · simp [hkept, hd] at ht
    · exact hi
  · rintro (⟨ign, rfl⟩ | ⟨x, y, n, rfl⟩)
    · cases he
      rfl
    · obtain ⟨-, rfl⟩ := inBounds_and_eq_afterDraw he (hc.faultCause.trans hs)
      rfl

theorem waitsForKey_eq_true {i : Instr} : waitsForKey i = true ↔ ∃ x, i = .ldVxK x := by
  cases i <;> simp [waitsForKey]

/-- Settles O10: of what a step can answer without a fault, the unmatched word and the completed instruction execute, and
stage 5 sets the outputs of both. -/
theorem endOfStepOutputs : Obligations.EndOfStepOutputs := by
  intro s t w hx h hf
  have hs := faultCause_of_executes hx
  cases stepsTo_of_step h with
  | halted hh => simp [hx.1] at hh
  | fetchFault c hh hf' => exact absurd hf (fetchFault_ne_none hf')
  | illegalWord => cases hf
  | raised w i u hx hd he hr => exact absurd hf (raises_faultCause_ne_none hr :)
  | skippedWord w' hx' hd hs' =>
    rw [executes_unique hx hx', hd]
    simp [AtDispatch]
  | completed w' i u hx' hd he hc =>
    have hdisplay := displayUpdated_iff_of_completes he hc hs rfl
    rw [executes_unique hx hx', hd]
    simp only [Option.some.injEq]
    refine ⟨rfl, hdisplay, ?_⟩
    rw [State.endStep_awaitKey, Bool.and_eq_true, waitsForKey_eq_true, beq_iff_eq]

end Sys2Proof.Proofs

/-!
PROOF. The statements about reset (70_reset_and_hazards.md R270) and the host's transactions load, advance_time and set_key
(20_memory.md R78, R79, R81).
-/
namespace Sys2Proof.Proofs

open Sys2Proof.Machine Sys2Proof.Safety

/-! ### Reset -/

theorem construct_reg (c : Config) (r : Reg) : (State.construct c).reg r = 0 := by
  simp [State.reg, State.construct, Vector.get_eq_getElem]

theorem construct_stack_get (c : Config) (j : Fin 16) : (State.construct c).stack.get j = 0 := by
  simp [State.construct, Vector.get_eq_getElem]

/-- The reset frame is the cleared one. -/
theorem construct_pixel (c : Config) (px : Fin 64) (py : Fin 32) : (State.construct c).fb.pixel px py = false :=
  FrameBuffer.pixel_clear px py

/-- Settles O21: register file, stack and frame entry by entry; the other fields are written out by the reset. -/
theorem resetRegistersAreZero : Obligations.ResetRegistersAreZero := fun c =>
  ⟨construct_reg c, rfl, rfl, construct_stack_get c, rfl, rfl, rfl, construct_pixel c, rfl, rfl, rfl, rfl, rfl, rfl, rfl⟩

/-! ### Load -/

/-- Settles O22: a load of at most ROM_MAX bytes is one write of consecutive bytes that ends inside memory. -/
theorem loadWritesProgram : Obligations.LoadWritesProgram := by
  refine fun s bytes => ⟨fun hlen => ?_, fun hlen => load_of_gt hlen s, rfl⟩
  rw [load_of_le hlen]
  refine ⟨rfl, fun j hj => ?_, ?_, rfl⟩
  · exact State.readByte_memWrite_inside (s := s) hj (by omega)
  · exact keepsMemoryOutside_congr (keepsMemoryOutside_memWrite s progBase bytes) rfl rfl

/-! ### The key latch -/

/-- What set_key makes of the latch. -/
def keysAfter (keys : Word) (k : Nat) (p : Bool) : Word :=
  if p then keys ||| BitVec.twoPow 16 k else keys &&& ~~~(BitVec.twoPow 16 k)

theorem setKey_of_lt {k : Nat} (h : k < 16) (s : State) (p : Bool) :
    s.setKey k p = .next { s with keys := keysAfter s.keys k p } := if_pos h

/-- The key that is set reads as it was set, and every other key as before. -/
theorem keysAfter_getLsbD {k : Nat} (h : k < 16) (keys : Word) (p : Bool) (j : Nat) :
    (keysAfter keys k p).getLsbD j = if j = k then p else keys.getLsbD j := by
  by_cases hj : j = k
  · subst hj
    cases p <;> simp [keysAfter, h]
  · cases p
    · simp [keysAfter, hj, Ne.symm hj]
      exact fun hset => BitVec.lt_of_getLsbD hset
    · simp [keysAfter, hj, Ne.symm hj]

/-- Settles O23: advance_time writes TACC, and set_key one bit of the latch. -/
theorem advanceTimeAndSetKey : Obligations.AdvanceTimeAndSetKey := by
  refine ⟨fun _ _ => rfl, fun s k p hk => ?_, fun s k p hk => if_neg (Nat.not_lt.mpr hk)⟩
  refine ⟨_, setKey_of_lt hk s p, ?_, fun j hj => ?_, rfl⟩
  · exact (keysAfter_getLsbD hk s.keys p k).trans (if_pos rfl)
  · exact (keysAfter_getLsbD hk s.keys p j).trans (if_neg hj)

end Sys2Proof.Proofs

/-!
PROOF. The statements of 40_control_flow.md about SYS (R120), RET and CALL (R122, R126), the skips on two registers (R132,
R134) and JP V0 (R136).
-/
namespace Sys2Proof.Proofs

open Sys2Proof.Machine Sys2Proof.Safety

/-! ### SYS -/

/-- Settles O24: SYS is handled as an unmatched word, and STRICT_DECODE decides. -/
theorem sysIsNoOp : Obligations.SysIsNoOp := by
  refine fun nnn s => ⟨fun hs => ?_, fun hs => ?_⟩
  · have hu : s.unmatched = s.advance := if_neg (by simp [hs])
    exact ⟨s.advance, congrArg Host.Outcome.next hu, rfl, onlyPc_setPc ..⟩
  · exact congrArg Host.Outcome.next (if_pos hs)

/-! ### The stack -/

/-- What CALL answers at depth k (R126). -/
def afterCall (nnn : Addr) (k : Fin 16) (s : State) : State :=
  { s with pc := addr16 nnn, sp := k.succ, stack := s.stack.set k.val (s.pc + 2) k.isLt }

/-- What RET answers at depth k + 1 (R122). -/
def afterRet (k : Fin 16) (s : State) : State := { s with pc := s.stack.get k, sp := k.castSucc }

theorem exec_call_of_depth {s : State} {k : Fin 16} (h : s.sp.val = k.val) (nnn : Addr) :
    exec (.call nnn) s = .next (afterCall nnn k s) := by
  rw [exec, execCall]
  split
  · have hfull := State.push_eq_none.mp ‹_›
    omega
  · obtain ⟨hd, rfl⟩ := State.push_eq_some ‹_›
    simp only [afterCall, State.setPc, h, Fin.succ]

theorem exec_ret_of_depth {s : State} {k : Fin 16} (h : s.sp.val = k.val + 1) (ign : Nibble) :
    exec (.ret ign) s = .next (afterRet k s) := by
  rw [exec, execRet]
  split
  · have hempty := State.pop_eq_none.mp ‹_›
    omega
  · obtain ⟨j, hj, hsp, rfl, rfl⟩ := State.pop_eq_some ‹_›
    obtain rfl : j = k.val := by omega
    rfl

/-- The entry a CALL writes holds the address after it, and no other entry changes. -/
theorem afterCall_stack_get (nnn : Addr) (k : Fin 16) (s : State) (j : Fin 16) :
    (afterCall nnn k s).stack.get j = if j = k then s.pc + 2 else s.stack.get j := by
  simp only [afterCall, Vector.get_eq_getElem, Vector.getElem_set, Fin.ext_iff, eq_comm]

/-- Settles O25: a pop above depth 0, else the raise. -/
theorem retPopsPc : Obligations.RetPopsPc := by
  refine fun ign s => ⟨fun k hk => ?_, fun h0 => ?_⟩
  · exact ⟨_, exec_ret_of_depth hk ign, rfl, rfl, rfl, keepsRegs_of_eq rfl _, keepsMemory_of_eq rfl rfl⟩
  · rw [exec, execRet, State.pop_eq_none.mpr h0]
    rfl

/-- Settles O26: a push below depth 16, else the raise. -/
theorem callPushesReturnAddress : Obligations.CallPushesReturnAddress := by
  refine fun nnn s => ⟨fun k hk => ?_, fun h16 => ?_⟩
  · refine ⟨_, exec_call_of_depth hk nnn, ?_, fun j hj => ?_, rfl, addr16_toNat nnn, rfl, keepsRegs_of_eq rfl _,
      keepsMemory_of_eq rfl rfl⟩
    · exact (afterCall_stack_get nnn k s k).trans (if_pos rfl)
    · exact (afterCall_stack_get nnn k s j).trans (if_neg hj)
  · rw [exec, execCall, State.push_eq_none.mpr h16]
    rfl

/-- Settles O27: the RET pops the entry the CALL wrote. -/
theorem returnUndoesCall : Obligations.ReturnUndoesCall := by
  intro nnn ign s t hlt h
  rw [exec_call_of_depth (k := ⟨s.sp.val, hlt⟩) rfl] at h
  cases h
  refine ⟨_, exec_ret_of_depth (k := ⟨s.sp.val, hlt⟩) rfl ign, ?_, rfl, rfl⟩
  exact (afterCall_stack_get nnn _ s _).trans (if_pos rfl)

/-! ### The skips and the computed jump -/

/-- Settles O31: both are the skip, on V[x] = V[y] and on its negation, and read no ignored nibble. -/
theorem skipsOnRegisters : Obligations.SkipsOnRegisters := by
  intro x y ign s
  have hse := skipIf_pc_and_onlyPc s (beq_iff_eq (a := s.reg x) (b := s.reg y))
  have hsne := skipIf_pc_and_onlyPc s (bne_iff_ne (a := s.reg x) (b := s.reg y))
  exact ⟨⟨_, rfl, hse⟩, _, rfl, hsne⟩

theorem reg16_toNat (s : State) (x : Reg) : (s.reg16 x).toNat = (s.reg x).toNat :=
  BitVec.toNat_setWidth_of_le (by decide)

/-- A 12-bit address and a byte add up without a wrap at 16 bits. -/
theorem addr16_add_reg16_toNat (nnn : Addr) (s : State) (x : Reg) :
    (addr16 nnn + s.reg16 x).toNat = nnn.toNat + (s.reg x).toNat := by
  have hnnn := nnn.isLt
  have hx := (s.reg x).isLt
  rw [BitVec.toNat_add, addr16_toNat, reg16_toNat, Nat.mod_eq_of_lt (by omega)]

/-- Settles O32: one write of PC with the sum. -/
theorem jpV0AddsV0 : Obligations.JpV0AddsV0 := fun nnn s =>
  ⟨_, rfl, addr16_add_reg16_toNat nnn s 0, onlyPc_setPc ..⟩

end Sys2Proof.Proofs

/-!
PROOF. The statements of 41_alu.md about ADD of an immediate (R152), the logic instructions (R156, R158, R160), the shifts
(R166, R170), SUBN (R168) and RND (R172).
-/
namespace Sys2Proof.Proofs

open Sys2Proof.Machine Sys2Proof.Safety

/-- Settles O34: one register write, of the sum mod 256. -/
theorem addImmediateSetsNoFlag : Obligations.AddImmediateSetsNoFlag := by
  intro x kk s
  obtain ⟨hreg, hpc, hframe⟩ := setReg_advance_spec s x (sumByte (s.reg x) kk)
  exact ⟨_, rfl, by rw [hreg, sumByte_toNat], hpc, hframe⟩

/-- Settles O35: one register write each, of a value given bit by bit. -/
theorem logicBitByBit : Obligations.LogicBitByBit := by
  intro x y s
  obtain ⟨hor, horPc, horFrame⟩ := setReg_advance_spec s x (s.reg x ||| s.reg y)
  obtain ⟨hand, handPc, handFrame⟩ := setReg_advance_spec s x (s.reg x &&& s.reg y)
  obtain ⟨hxor, hxorPc, hxorFrame⟩ := setReg_advance_spec s x (s.reg x ^^^ s.reg y)
  exact ⟨⟨_, rfl, horPc, horFrame, fun k => by rw [hor, BitVec.getLsbD_or]⟩,
    ⟨_, rfl, handPc, handFrame, fun k => by rw [hand, BitVec.getLsbD_and]⟩,
    ⟨_, rfl, hxorPc, hxorFrame, fun k => by rw [hxor, BitVec.getLsbD_xor]⟩⟩

/-- Settles O38: SUB's difference and flag with the operands the other way round. -/
theorem subnReversesOperands : Obligations.SubnReversesOperands := fun _ _ s =>
  ⟨_, rfl, setRegFlag_advance_spec s _ (diffByte_toNat ..) noBorrow_eq_true⟩

/-! ### The shifts -/

theorem shrByte_toNat (b : Byte) : (shrByte b).toNat = b.toNat / 2 := by
  have hb := b.isLt
  rw [shrByte, BitVec.toNat_ofNat, Nat.mod_eq_of_lt (by omega)]

theorem shlByte_toNat (b : Byte) : (shlByte b).toNat = b.toNat * 2 % 256 := BitVec.toNat_ofNat ..

/-- The value shifted, for either value of QUIRK_SHIFT_SRC. -/
theorem shiftSource_eq {x y : Reg} {s : State} {b : Byte}
    (h : (s.config.shiftSource = .vy ∧ b = s.reg y) ∨ (s.config.shiftSource = .vx ∧ b = s.reg x)) :
    s.shiftSource x y = b := by
  rw [State.shiftSource]
  rcases h with ⟨hc, rfl⟩ | ⟨hc, rfl⟩ <;> rw [hc]

/-- Settles O39: the shifted source is written first and the bit shifted out after it. -/
theorem shiftsByOne : Obligations.ShiftsByOne := by
  intro x y s b hsrc
  obtain rfl := shiftSource_eq hsrc
  exact ⟨⟨_, rfl, setRegFlag_advance_spec s x (shrByte_toNat _) Iff.rfl⟩,
    ⟨_, rfl, setRegFlag_advance_spec s x (shlByte_toNat _) Iff.rfl⟩⟩

/-! ### Random -/

/-- Settles O40: one count of the draw and one register write, of the drawn byte under the mask. -/
theorem rndMasksFreeDraw : Obligations.RndMasksFreeDraw := by
  intro x kk s
  obtain ⟨hreg, hpc, -, hregs, -⟩ := setReg_advance_spec s.countDraw x (s.freeDraw &&& kk)
  refine ⟨_, rfl, hreg, fun k hk => ?_, rfl, hpc, rfl, hregs, keepsMemory_of_eq rfl rfl⟩
  rw [hreg, BitVec.getLsbD_and, hk, Bool.and_false]

end Sys2Proof.Proofs

/-!
PROOF. The statements of 42_index_memory.md about ADD I and the glyph address (R182, R184), and the dump of registers (R188).
-/
namespace Sys2Proof.Proofs

open Sys2Proof.Machine Sys2Proof.Safety

/-! ### The address register -/

theorem add_reg16_toNat (w : Word) (s : State) (x : Reg) :
    (w + s.reg16 x).toNat = (w.toNat + (s.reg x).toNat) % 65536 := by
  rw [BitVec.toNat_add, reg16_toNat]

/-- Masking by 0xF leaves the low nibble. -/
theorem and_0xF_toNat (v : Byte) : (v &&& 0xF).toNat = v.toNat % 16 := Nat.and_two_pow_sub_one_eq_mod v.toNat 4

/-- The glyph of the low nibble: FONT_BASE + 75 is below 16 bits, so nothing wraps. -/
theorem glyphAddr_toNat (s : State) (v : Byte) :
    (s.glyphAddr v).toNat = s.config.fontBase.val + 5 * (v.toNat % 16) := by
  have hbase := s.config.fontBase.isLt
  rw [State.glyphAddr, and_0xF_toNat, BitVec.toNat_ofNat, Nat.mod_eq_of_lt (by omega)]

/-- Settles O42: both are one write of I and the advance. -/
theorem addIAndGlyphSetI : Obligations.AddIAndGlyphSetI := fun x s =>
  ⟨⟨_, rfl, add_reg16_toNat s.i s x, rfl, rfl, keepsRegs_of_eq rfl _, keepsMemory_of_eq rfl rfl⟩,
    ⟨_, rfl, glyphAddr_toNat s (s.reg x), rfl, rfl, keepsRegs_of_eq rfl _, keepsMemory_of_eq rfl rfl⟩⟩

/-! ### The dump of registers -/

/-- An access out of bounds raises MEM_BOUNDS at the lowest address without a byte (R179), whatever the instruction would
have written. -/
theorem accessAtI_raises_lowest {s : State} {len : Nat} (hlen : 1 ≤ len) (h : 0x1000 < s.i.toNat + len)
    (body : State) :
    ∃ a : Word, a.toNat = max s.i.toNat 0x1000 ∧ s.accessAtI len body = s.raise .memBounds a := by
  rcases s.accessAtI_cases len body with ⟨hin, -⟩ | ⟨a, -, -, ha, hraise⟩
  · omega
  · exact ⟨a, ha, hraise⟩

/-- A dump writes memory, I and PC. -/
theorem afterDump_eq (x : Reg) (s : State) :
    afterDump x s = { s with mem := (afterDump x s).mem, i := (s.bumpI x).i, pc := s.pc + 2 } := by
  rw [afterDump, State.bumpI_eq, State.bumpI_eq]
  rfl

/-- The bytes a dump writes are those of the registers at I. -/
theorem afterDump_mem (x : Reg) (s : State) :
    (afterDump x s).mem = (s.memWrite s.i.toNat (s.regsUpTo x)).mem := by
  rw [afterDump, State.bumpI_eq]
  rfl

theorem afterDump_keepsMemoryOutside (x : Reg) (s : State) :
    KeepsMemoryOutside s.i.toNat (x.toNat + 1) s (afterDump x s) := by
  have hwrite := keepsMemoryOutside_memWrite s s.i.toNat (s.regsUpTo x)
  rw [State.regsUpTo_length] at hwrite
  exact keepsMemoryOutside_congr hwrite (afterDump_mem x s) (by rw [afterDump_eq, State.memWrite_config])

/-- Settles O44: in bounds a dump is `afterDump`; out of bounds it is the raise alone. -/
theorem dumpStoresRegisters : Obligations.DumpStoresRegisters := by
  refine fun x s => ⟨fun hin => ?_, fun hout => ?_⟩
  · have heq := afterDump_eq x s
    have hi : (afterDump x s).i = (s.bumpI x).i := by rw [heq]
    have hpc : (afterDump x s).pc = s.pc + 2 := by rw [heq]
    have hv : (afterDump x s).v = s.v := by rw [heq]
    refine ⟨_, exec_ldMemVx_of_inBounds hin, fun r => readByte_afterDump hin, ?_, hpc, ?_, keepsRegs_of_eq hv _,
      afterDump_keepsMemoryOutside x s⟩
    · rw [hi, bumpI_i_toNat hin]
    · rw [hi, hpc]
      exact heq
  · obtain ⟨a, ha, hraise⟩ := accessAtI_raises_lowest (s := s) (len := x.toNat + 1) (by omega) (by omega) _
    exact ⟨_, congrArg Host.Outcome.next hraise, ha, rfl⟩

end Sys2Proof.Proofs

/-!
PROOF. The statements of 43_display.md about CLS (R200) and DRW (R203, R205, R207).
-/
namespace Sys2Proof.Proofs

open Sys2Proof.Machine Sys2Proof.Safety

/-- Settles O46: one write of the cleared frame and the advance. -/
theorem clsClearsFrame : Obligations.ClsClearsFrame := fun _ _ =>
  ⟨_, rfl, FrameBuffer.pixel_clear, rfl, rfl, rfl, keepsRegs_of_eq rfl _, keepsMemory_of_eq rfl rfl⟩

/-! ### A draw that completes -/

theorem exec_drw_of_inBounds {n : Nibble} {s : State} (h : SpriteInBounds n s) (x y : Reg) :
    exec (.drw x y n) s = .next (afterDraw x y n s) := by
  have hbody : s.accessAtI n.toNat (afterDraw x y n s) = afterDraw x y n s := by
    rw [State.accessAtI, accessFault_eq_none.mpr h]
  exact congrArg Host.Outcome.next hbody

/-- A draw leaves every register but VF alone. -/
theorem afterDraw_reg_ne {r : Reg} (h : r ≠ Reg.flag) (x y : Reg) (n : Nibble) (s : State) :
    (afterDraw x y n s).reg r = s.reg r := by
  rw [afterDraw, State.advance_reg, State.setReg_reg_ne _ h, State.setFrame_reg]

theorem afterDraw_keepsRegs (x y : Reg) (n : Nibble) (s : State) : KeepsRegs [Reg.flag] s (afterDraw x y n s) :=
  fun _ hr => afterDraw_reg_ne (by simpa using hr) x y n s

theorem afterDraw_flag (x y : Reg) (n : Nibble) (s : State) :
    (afterDraw x y n s).reg Reg.flag = flagByte (s.drawn x y n).2 := State.setReg_reg_self ..

theorem flagByte_eq_one_or_zero (f : Bool) : flagByte f = 1 ∨ flagByte f = 0 := by cases f <;> decide

/-- A completed draw flips the pixels its sprite touches. -/
theorem afterDraw_pixel_of_touches {x y : Reg} {n : Nibble} {s : State} {px : Fin 64} {py : Fin 32}
    (h : SpriteInBounds n s) (ht : DrawTouches s x y n px py) :
    (afterDraw x y n s).fb.pixel px py = !s.fb.pixel px py :=
  Bool.eq_not.mpr ((afterDraw_pixel_ne_iff h x y px py).mpr ht)

/-- A completed draw leaves every other pixel as it was. -/
theorem afterDraw_pixel_of_not_touches {x y : Reg} {n : Nibble} {s : State} {px : Fin 64} {py : Fin 32}
    (h : SpriteInBounds n s) (ht : ¬DrawTouches s x y n px py) :
    (afterDraw x y n s).fb.pixel px py = s.fb.pixel px py :=
  not_not.mp (mt (afterDraw_pixel_ne_iff h x y px py).mp ht)

/-- Settles O47: a completed draw flips the touched pixels, and VF tells of a collision. -/
theorem drwTogglesTouchedPixels : Obligations.DrwTogglesTouchedPixels := by
  intro x y n s h
  have hin : SpriteInBounds n s := h.imp (fun hn => by rw [hn]; rfl) fun hle => by omega
  have hflag : (afterDraw x y n s).reg Reg.flag = 1 ∨ (afterDraw x y n s).reg Reg.flag = 0 := by
    rw [afterDraw_flag]
    exact flagByte_eq_one_or_zero _
  exact ⟨_, exec_drw_of_inBounds hin x y, fun _ _ => afterDraw_pixel_of_touches hin,
    fun _ _ => afterDraw_pixel_of_not_touches hin, hflag, afterDraw_flag_eq_one_iff hin x y, rfl, rfl, rfl,
    afterDraw_keepsRegs x y n s, keepsMemory_of_eq rfl rfl⟩

/-- With no rows nothing is read or drawn, and nothing collides (R207). -/
theorem drawn_zero (x y : Reg) (s : State) : s.drawn x y 0 = (s.fb, false) := rfl

/-- Settles O48: the check of the whole sprite comes first, and passes where there are no rows. -/
theorem drwBoundsAndZeroRows : Obligations.DrwBoundsAndZeroRows := by
  refine ⟨fun x y n s hn hout => ?_, fun x y s => ?_⟩
  · obtain ⟨a, ha, hraise⟩ := accessAtI_raises_lowest (s := s) (len := n.toNat) hn (by omega) _
    exact ⟨_, congrArg Host.Outcome.next hraise, ha, rfl⟩
  · have hflag : (afterDraw x y 0 s).reg Reg.flag = 0 := by rw [afterDraw_flag, drawn_zero]; rfl
    exact ⟨_, exec_drw_of_inBounds (.inl rfl) x y, rfl, hflag, rfl, rfl, rfl, afterDraw_keepsRegs x y 0 s,
      keepsMemory_of_eq rfl rfl⟩

/-! ### The second draw -/

/-- The states agree on what a draw of V[x], V[y] reads beside the frame: memory, the options, I and the two registers. -/
structure SameSprite (x y : Reg) (s u : State) : Prop where
  mem : u.mem = s.mem
  config : u.config = s.config
  i : u.i = s.i
  regX : u.reg x = s.reg x
  regY : u.reg y = s.reg y

/-- The same sprite at the same place touches the same pixels. -/
theorem SameSprite.drawTouches_iff {x y : Reg} {s u : State} (h : SameSprite x y s u) (n : Nibble) (px : Fin 64)
    (py : Fin 32) : DrawTouches u x y n px py ↔ DrawTouches s x y n px py := by
  simp only [DrawTouches, Touches, h.config, h.i, h.regX, h.regY, State.readByte_congr h.mem h.config]

/-- Flipping the touched pixels twice is flipping none. -/
theorem afterDraw_fb_of_sameSprite {x y : Reg} {n : Nibble} {s u : State} (h : SameSprite x y s u)
    (hs : SpriteInBounds n s) (hu : SpriteInBounds n u) (hfb : u.fb = (afterDraw x y n s).fb) :
    (afterDraw x y n u).fb = s.fb := by
  apply FrameBuffer.ext_pixel
  intro px py
  by_cases ht : DrawTouches s x y n px py
  · rw [afterDraw_pixel_of_touches hu ((h.drawTouches_iff n px py).mpr ht), hfb, afterDraw_pixel_of_touches hs ht,
      Bool.not_not]
  · rw [afterDraw_pixel_of_not_touches hu (mt (h.drawTouches_iff n px py).mp ht), hfb,
      afterDraw_pixel_of_not_touches hs ht]

/-- Settles O50: the second draw flips the pixels the first one did, and finds set the touched ones that were not. -/
theorem drawingTwiceRestores : Obligations.DrawingTwiceRestores := by
  intro x y n s t u w _ hu hdraw ht hfb hmem hconfig hi hx hy hagain
  obtain ⟨hs, rfl⟩ := inBounds_and_eq_afterDraw hdraw ht
  have hsame : SameSprite x y s u := ⟨hmem, hconfig, hi, hx, hy⟩
  have hin : SpriteInBounds n u := by rwa [SpriteInBounds, hi]
  rw [exec_drw_of_inBounds hin] at hagain
  cases hagain
  refine ⟨hu, afterDraw_fb_of_sameSprite hsame hs hin hfb, ?_⟩
  rw [afterDraw_flag_eq_one_iff hin, hfb]
  refine exists_congr fun px => exists_congr fun py => ?_
  rw [hsame.drawTouches_iff n px py]
  refine and_congr_right fun htouch => ?_
  rw [afterDraw_pixel_of_touches hs htouch, Bool.not_eq_true']

end Sys2Proof.Proofs

/-!
PROOF. The statements of 44_timers_keys.md about the sound timer (R224) and the skips on a key (R226, R228).
-/
namespace Sys2Proof.Proofs

open Sys2Proof.Machine Sys2Proof.Safety

/-! ### The sound timer -/

/-- The value Fx18 sets is the one stage 5 of the same step finds. -/
theorem step_ldStVx {x : Reg} {s : State} (hx : Executes s (0xF#4 ++ x ++ 0x18#8)) :
    step s = .next (((AtDispatch s).setSt (s.reg x)).advance.endStep false) :=
  step_of_exec hx (decodeWord_encode (i := .ldStVx x) rfl) rfl (faultCause_of_executes hx :)

/-- Settles O52: one write of ST, and stage 5 buzzes where it is not 0. -/
theorem soundTimerSet : Obligations.SoundTimerSet := fun _ _ =>
  ⟨⟨_, rfl, rfl, rfl, rfl, keepsRegs_of_eq rfl _, keepsMemory_of_eq rfl rfl⟩,
    fun hx => ⟨_, step_ldStVx hx, rfl, bne_iff_ne⟩⟩

/-! ### The skips on a key -/

/-- The key a value names (R225), for either value of KEY_OOR. -/
theorem pressed_eq {s : State} {v : Byte} {p : Bool}
    (h : (v.toNat < 16 ∧ p = s.keys.getLsbD v.toNat) ∨
      (16 ≤ v.toNat ∧ s.config.keyOutOfRange = .lowNibble ∧ p = s.keys.getLsbD (v.toNat % 16)) ∨
      (16 ≤ v.toNat ∧ s.config.keyOutOfRange = .notPressed ∧ p = false)) : s.pressed v = p := by
  rw [State.pressed]
  rcases h with ⟨hlt, rfl⟩ | ⟨hge, hoor, rfl⟩ | ⟨hge, hoor, rfl⟩
  · exact if_pos hlt
  · rw [if_neg (Nat.not_lt.mpr hge), hoor]
    exact congrArg s.key (and_0xF_toNat v)
  · rw [if_neg (Nat.not_lt.mpr hge), hoor]

/-- Settles O53: both are the skip, on the named key's state and on its negation. -/
theorem skipsOnKey : Obligations.SkipsOnKey := by
  intro x s p h
  obtain rfl := pressed_eq h
  have hskp := skipIf_pc_and_onlyPc s (b := s.pressed (s.reg x)) Iff.rfl
  have hsknp := skipIf_pc_and_onlyPc s (Bool.not_eq_true' (s.pressed (s.reg x)) :).to_iff
  exact ⟨⟨_, rfl, hskp⟩, _, rfl, hsknp⟩

end Sys2Proof.Proofs

/-!
PROOF. The rules over all instructions: what can change memory (20_memory.md R62), VF (10_state.md R22), the other state
(10_state.md R29 to R42), and make PC odd (60_exceptions.md R245).
-/
namespace Sys2Proof.Proofs

open Sys2Proof.Machine Sys2Proof.Safety

/-! ### Memory -/

/-- Settles O56: a raise writes no byte, and of the instructions that complete two write bytes, from I on. -/
theorem onlyStoresChangeMemory : Obligations.OnlyStoresChangeMemory := by
  intro i s t a h hne
  rcases exec_cases h with hr | hc
  · rw [raises_eq_raise hr] at hne
    exact absurd rfl hne
  · have hwrite {bs : List Byte} (hmem : t.mem = (s.memWrite s.i.toNat bs).mem) :
        s.i.toNat ≤ a ∧ a < s.i.toNat + bs.length := by
      by_contra hout
      rw [State.readByte_congr hmem hc.config] at hne
      exact hne (State.readByte_memWrite_outside hout)
    rcases hc.mem with hmem | ⟨x, hi, hmem⟩ | ⟨x, hi, hmem⟩
    · exact absurd (State.readByte_congr hmem hc.config a) hne
    · obtain ⟨hlow, hhigh⟩ := hwrite hmem
      exact ⟨hlow, .inl ⟨x, hi, hhigh⟩⟩
    · obtain ⟨hlow, hhigh⟩ := hwrite hmem
      rw [State.regsUpTo_length] at hhigh
      exact ⟨hlow, .inr ⟨x, hi, hhigh⟩⟩

/-! ### The special registers -/

/-- Settles O58: a raise writes only the report and the outputs; what a completed instruction writes is said by
`Completes`. -/
theorem specialRegisterWriters : Obligations.SpecialRegisterWriters := by
  intro i s t h
  rcases exec_cases h with hr | hc
  · rw [raises_eq_raise hr]
    simp
  · refine ⟨hc.index.resolve_left, hc.stack.resolve_left, hc.sp.resolve_left, hc.dt.resolve_left, hc.st.resolve_left,
      fun hne => ?_, hc.draws.resolve_left, hc.tacc, hc.keys, hc.awaitKey, hc.loaded, hc.config⟩
    rcases hc.display with ⟨hkept, -⟩ | ⟨-, hi⟩
    · exact absurd hkept hne
    · exact hi

/-! ### PC's lowest bit -/

/-- Adding an even number keeps the lowest bit. -/
theorem getLsbD_zero_add_even {w c : Word} (hc : c.getLsbD 0 = false) : (w + c).getLsbD 0 = w.getLsbD 0 := by
  rw [BitVec.getLsbD_add (by decide), hc]
  simp

/-- Settles O59: a raise leaves PC, and beside the jumps PC moves by 2 or 4 or not at all. -/
theorem onlyJumpsMakePcOdd : Obligations.OnlyJumpsMakePcOdd := by
  intro i s t h heven hodd
  have hne {w : Word} (hw : w.getLsbD 0 = s.pc.getLsbD 0) : t.pc ≠ w := by
    rintro rfl
    cases hodd.symm.trans (hw.trans heven)
  rcases exec_cases h with hr | hc
  · have hpc : t.pc = s.pc := by rw [raises_eq_raise hr, State.raise_pc]
    exact absurd hpc (hne rfl)
  · exact ((hc.pc.resolve_left (hne rfl)).resolve_left (hne (getLsbD_zero_add_even rfl))).resolve_left
      (hne (getLsbD_zero_add_even rfl))

/-! ### The registers -/

/-- The registers an instruction may write (10_state.md R22, R23). -/
def MayWrite (r : Reg) : Instr → Prop
  | .ldVxKk x _ | .addVxKk x _ | .rnd x _ | .ldVxDt x | .ldVxK x => r = x
  | .ldVxVy x _ | .orVxVy x _ | .andVxVy x _ | .xorVxVy x _ => r = x
  | .addVxVy x _ | .subVxVy x _ | .shrVxVy x _ | .subnVxVy x _ | .shlVxVy x _ => r = x ∨ r = Reg.flag
  | .drw _ _ _ => r = Reg.flag
  | .ldVxMem x => r.toNat ≤ x.toNat
  | _ => False

/-- An access at I that would keep a register keeps it where it faults, too. -/
theorem accessAtI_reg {s body : State} {r : Reg} (h : body.reg r = s.reg r) (len : Nat) :
    (s.accessAtI len body).reg r = s.reg r := by
  rcases s.accessAtI_cases len body with ⟨-, hin⟩ | ⟨a, -, -, -, hraise⟩
  · rw [hin, h]
  · rw [hraise, State.raise_reg]

/-- A dump writes no register. -/
theorem afterDump_reg (x : Reg) (s : State) (r : Reg) : (afterDump x s).reg r = s.reg r := by
  rw [afterDump_eq]
  rfl

/-- A register an instruction may not write holds what it held. -/
theorem reg_eq_of_not_mayWrite {i : Instr} {s t : State} {r : Reg} (h : exec i s = .next t) (hr : ¬MayWrite r i) :
    t.reg r = s.reg r := by
  cases i
  case ldVxKk | addVxKk | ldVxVy | orVxVy | andVxVy | xorVxVy | ldVxDt =>
    cases h
    exact State.setReg_reg_ne s hr _
  case rnd =>
    cases h
    exact State.setReg_reg_ne s.countDraw hr _
  case addVxVy | subVxVy | shrVxVy | subnVxVy | shlVxVy =>
    cases h
    obtain ⟨hx, hflag⟩ := not_or.mp hr
    rw [State.advance_reg, State.setRegFlag_reg, if_neg hflag, if_neg hx]
  case ldVxK x =>
    rw [exec, execLdVxK] at h
    split at h <;> cases h
    · rfl
    · exact State.setReg_reg_ne s hr _
  case drw x y n =>
    cases h
    exact accessAtI_reg (afterDraw_reg_ne hr x y n s) _
  case ldVxMem x =>
    cases h
    exact accessAtI_reg (afterLoad_reg_above s (Nat.not_le.mp hr)) _
  case ldMemVx x =>
    cases h
    exact accessAtI_reg (afterDump_reg x s r) _
  case ldBVx x =>
    cases h
    exact accessAtI_reg (s := s) (body := (s.memWrite _ _).advance) rfl _
  case sys nnn =>
    cases h
    rcases s.unmatched_cases with ⟨-, hu⟩ | ⟨-, hu⟩ <;> rw [hu] <;> rfl
  case ret ign =>
    rw [exec, execRet] at h
    split at h <;> cases h
    · rfl
    · obtain ⟨k, hk, -, -, rfl⟩ := State.pop_eq_some ‹_›
      rfl
  case call nnn =>
    rw [exec, execCall] at h
    split at h <;> cases h
    · rfl
    · obtain ⟨hd, rfl⟩ := State.push_eq_some ‹_›
      rfl
  case cls | jp | jpV0 | ldI | addIVx | ldFVx | ldDtVx | ldStVx => cases h; rfl
  case seVxKk | sneVxKk | seVxVy | sneVxVy | skp | sknp => cases h; rfl

/-- Settles O57: the instructions that may write VF are the listed ones. -/
theorem onlyListedInstructionsChangeVf : Obligations.OnlyListedInstructionsChangeVf := by
  intro i s t h hne
  have hwrite : MayWrite Reg.flag i := not_not.mp (mt (reg_eq_of_not_mayWrite h) hne)
  cases i
  case ldVxKk | addVxKk | rnd | ldVxVy | orVxVy | andVxVy | xorVxVy | ldVxDt | ldVxK => obtain rfl := hwrite; simp
  case addVxVy | subVxVy | shrVxVy | subnVxVy | shlVxVy => simp
  case drw => simp
  case ldVxMem x =>
    have hge : Reg.flag.toNat ≤ x.toNat := hwrite
    have hx : x = Reg.flag := by bv_omega
    simp [hx]
  all_goals exact hwrite.elim

end Sys2Proof.Proofs
